-- ==== Sys2Proof/Word.lean ====
section
/-! DEFINITION. The word types of the CRC core (spec 00_scope.md R5, R6, R7): every value is an unsigned bit vector of a
stated width, arithmetic on 64-bit values is modulo 2^64, shifts are logical. There is no signed value and no
arithmetic shift anywhere in this hardware (R7), so only the unsigned operations of `BitVec` are used. -/

namespace Sys2Proof

/-- A 64-bit register, table entry, data word or response word (R5: "register container width" 64 bits). -/
abbrev Word := BitVec 64

/-- The 32-bit command word `CMD` of one beat (R71). -/
abbrev CmdWord := BitVec 32

/-- One input element: an 8-bit byte (R5). -/
abbrev Byte := BitVec 8

end Sys2Proof
end

