-- ==== Sys2Proof/Config.lean ====
section
/-! DEFINITION. What the spec leaves open as a parameter, and the free values. Each is an opaque constant with no body:
nothing in Lean can evaluate it or prove a value of it, so a theorem about the model holds whatever it is. -/

namespace Sys2Proof

/-- `HBUF_MAX - 1`. The spec leaves `HBUF_MAX` OPEN with `1 ≤ HBUF_MAX ≤ 2^32` (00_scope.md R5, 93 U10); taking the
free number from `Fin (2^32)` and adding one says exactly that bound and no more (log entry 7). -/
opaque Config.hbufMaxPred : Fin (2 ^ 32)

/-- `HBUF_MAX`, the largest host buffer length in bytes (R5, R52). -/
def Config.hbufMax : Nat := Config.hbufMaxPred.val + 1

/-- The byte the host's memory holds at an index the host has not written since the model's run began: the spec gives
`HBUF` no contents of its own (R33, R39: "not reset (host-owned)"). One free value per index, the same at every read,
because reads of `HBUF` are idempotent (R59). Log entry 5. -/
opaque Config.unwrittenByte : Nat → Byte

/-- The free draws of R62: the byte an UPDATER consumes at a position the host wrote while that UPDATER was in flight
"is any 8-bit value". Applied to the counter `draws` of State, so every draw is a fresh one. Log entry 9. -/
opaque Config.racedByte : Nat → Byte

end Sys2Proof
end

