-- ==== Sys2Proof/Syntax.lean ====
section
/-! DEFINITION. The syntax of the CRC core: the command beat (R71), the five formats (R72), the instruction type with one
constructor per row of the opcode map (R74), and the abstract syntax of the assembler's lines (R78, R79). -/

namespace Sys2Proof

/-- A command beat: the 32-bit command word `CMD` and the 64-bit data word `DATA`, presented together (R71). -/
structure Beat where
  word : CmdWord
  data : Word
  deriving DecidableEq, Repr

/-- The five formats of R72. -/
inductive Format where
  /-- no operand -/
  | N
  /-- data operand -/
  | D
  /-- byte operand -/
  | B
  /-- configure -/
  | C
  /-- reflect -/
  | K
  deriving DecidableEq, Repr

/-- One command, as decode reads it: one constructor per row of the opcode map (R74), its operands with the widths R73
gives them, so that every term fits its fields. An operand value the command itself refuses (a width of 0 or above 64) is
a term too: it can be encoded, and the core answers it with `InvalidParameter` (R71, R204). -/
inductive Instr where
  /-- R140 -/
  | nop
  /-- R141: `value = DATA[63:0]` -/
  | setpoly (value : Word)
  /-- R142: `value = DATA[63:0]` -/
  | setinit (value : Word)
  /-- R143: `value = DATA[63:0]` -/
  | setxorout (value : Word)
  /-- R144: `width = CMD[22:16]`, `refIn = CMD[23]`, `refOut = CMD[24]` -/
  | config (width : BitVec 7) (refIn refOut : Bool)
  /-- R163 -/
  | reset
  /-- R164: `byte = CMD[15:8]` -/
  | update (byte : Byte)
  /-- R165: `offset = DATA[31:0]`, `length = DATA[63:32]` -/
  | updater (offset length : BitVec 32)
  /-- R181 -/
  | getvalue
  /-- R126: `index = CMD[15:8]` -/
  | tblrd (index : BitVec 8)
  /-- R105: `width = CMD[22:16]`, `value = DATA[63:0]` -/
  | reflect (width : BitVec 7) (value : Word)
  deriving DecidableEq, Repr

/-- The format column of the opcode map (R74). -/
def Instr.format : Instr → Format
  | .nop => .N
  | .setpoly _ => .D
  | .setinit _ => .D
  | .setxorout _ => .D
  | .config _ _ _ => .C
  | .reset => .N
  | .update _ => .B
  | .updater _ _ => .D
  | .getvalue => .N
  | .tblrd _ => .B
  | .reflect _ _ => .K

/-- Whether a format uses `DATA` (R72, the last column of its first table). -/
def Format.usesData : Format → Bool
  | .N => false
  | .D => true
  | .B => false
  | .C => false
  | .K => true

/-- An assembler line of R78's table. Its operands are numbers as written, of any size: whether each fits its field is
what `CoreLine.wellFormed` checks and the assembler rejects (R78). -/
inductive CoreLine where
  | nop
  | setpoly (imm64 : Nat)
  | setinit (imm64 : Nat)
  | setxorout (imm64 : Nat)
  | config (width refIn refOut : Nat)
  | reset
  | update (imm8 : Nat)
  | updater (offset length : Nat)
  | getvalue
  | tblrd (index : Nat)
  | reflect (width imm64 : Nat)
  deriving DecidableEq, Repr

/-- An assembler line: a command of R78 or a pseudo-instruction of R79. -/
inductive AsmLine where
  | core (line : CoreLine)
  | crcparams (width poly init refIn refOut xorOut : Nat)
  | presetCrc32
  | presetCrc64xz
  | updates (bytes : List Nat)
  | bitrev64 (value : Nat)
  deriving DecidableEq, Repr

/-- The expansions of the pseudo-instructions (R79). The numbers of the two presets are R79's own. -/
def AsmLine.expand : AsmLine → List CoreLine
  | .core line => [line]
  | .crcparams w p i ri ro x => [.setpoly p, .setinit i, .setxorout x, .config w ri ro]
  | .presetCrc32 =>
    [.setpoly 0x04C11DB7, .setinit 0xFFFFFFFF, .setxorout 0xFFFFFFFF, .config 32 1 1]
  | .presetCrc64xz =>
    [.setpoly 0x42F0E1EBA9EA3693, .setinit 0xFFFFFFFFFFFFFFFF, .setxorout 0xFFFFFFFFFFFFFFFF, .config 64 1 1]
  | .updates bytes => bytes.map .update
  | .bitrev64 x => [.reflect 64 x]

end Sys2Proof
end

