-- ==== Sys2Proof/WellFormed.lean ====
section
/-! DEFINITION. Which assembler lines are well formed: "The assembler rejects an operand that does not fit its field"
(R78). A decoded `Instr` needs no check of its own: its operands' types are exactly the fields of R73. -/

namespace Sys2Proof

/-- Every operand of an R78 line fits its field. A width of 0 or 65 to 127 fits, and the assembler does not reject it
(R78); the core answers it with `InvalidParameter` (R204). -/
def CoreLine.wellFormed : CoreLine → Bool
  | .nop => true
  | .setpoly v => v < 2 ^ 64
  | .setinit v => v < 2 ^ 64
  | .setxorout v => v < 2 ^ 64
  | .config w ri ro => w < 2 ^ 7 && ri < 2 && ro < 2
  | .reset => true
  | .update b => b < 2 ^ 8
  | .updater o l => o < 2 ^ 32 && l < 2 ^ 32
  | .getvalue => true
  | .tblrd i => i < 2 ^ 8
  | .reflect w v => w < 2 ^ 7 && v < 2 ^ 64

/-- A line is well formed when every command it expands to is (R79), and there is at least one command: `updates` is
written with at least the byte `b0`. -/
def AsmLine.wellFormed (l : AsmLine) : Bool :=
  !l.expand.isEmpty && l.expand.all CoreLine.wellFormed

end Sys2Proof
end

