-- ==== Sys2Proof/Decode.lean ====
section
/-! DEFINITION. Decode and encode (30_encoding.md R71 to R77). Decode is total: a word that selects no row of the opcode
map gives `none`, which the core answers with `IllegalCommand` (R75, R76). Decode reads only `CMD` to choose the row; the
operands of formats D and K come from `DATA` (R73). -/

namespace Sys2Proof

/-- One row of the opcode map (R74): the word `c` belongs to it when `c &&& mask = pattern`. -/
structure OpRow where
  mnemonic : String
  mask : CmdWord
  pattern : CmdWord
  deriving DecidableEq, Repr

/-- The opcode map of R74 in the order of `OP`, 0x0 to 0xA. `OP` values 0xB to 0xF are reserved and have no row. -/
def opcodeTable : List OpRow :=
  [⟨"NOP", 0xFFFFFFFF, 0x00000000⟩,
   ⟨"SETPOLY", 0xFFFFFFFF, 0x00000001⟩,
   ⟨"SETINIT", 0xFFFFFFFF, 0x00000002⟩,
   ⟨"SETXOROUT", 0xFFFFFFFF, 0x00000003⟩,
   ⟨"CONFIG", 0xFE00FFFF, 0x00000004⟩,
   ⟨"RESET", 0xFFFFFFFF, 0x00000005⟩,
   ⟨"UPDATE", 0xFFFF00FF, 0x00000006⟩,
   ⟨"UPDATER", 0xFFFFFFFF, 0x00000007⟩,
   ⟨"GETVALUE", 0xFFFFFFFF, 0x00000008⟩,
   ⟨"TBLRD", 0xFFFF00FF, 0x00000009⟩,
   ⟨"REFLECT", 0xFF80FFFF, 0x0000000A⟩]

/-- `CMD[3:0]`, the field `OP` (R71). -/
def opField (c : CmdWord) : BitVec 4 := c.extractLsb' 0 4

/-- `CMD[15:8]`, the field `IMM8`: the byte of UPDATE and the index of TBLRD (R71, R73). -/
def imm8Field (c : CmdWord) : BitVec 8 := c.extractLsb' 8 8

/-- `CMD[22:16]`, the field `WIDTH` (R71, R73). -/
def widthField (c : CmdWord) : BitVec 7 := c.extractLsb' 16 7

/-- `CMD[23]`, the field `RI` (R71, R73). -/
def refInField (c : CmdWord) : Bool := c.getLsbD 23

/-- `CMD[24]`, the field `RO` (R71, R73). -/
def refOutField (c : CmdWord) : Bool := c.getLsbD 24

/-- `DATA[31:0]`, UPDATER's offset (R73). -/
def offsetField (d : Word) : BitVec 32 := d.extractLsb' 0 32

/-- `DATA[63:32]`, UPDATER's length (R73). -/
def lengthField (d : Word) : BitVec 32 := d.extractLsb' 32 32

/-- The command of the row numbered `op`, its operands assembled as R73 says: none is sign-extended, scaled or shifted. -/
def instrOfRow (b : Beat) : Nat → Option Instr
  | 0x0 => some .nop
  | 0x1 => some (.setpoly b.data)
  | 0x2 => some (.setinit b.data)
  | 0x3 => some (.setxorout b.data)
  | 0x4 => some (.config (widthField b.word) (refInField b.word) (refOutField b.word))
  | 0x5 => some .reset
  | 0x6 => some (.update (imm8Field b.word))
  | 0x7 => some (.updater (offsetField b.data) (lengthField b.data))
  | 0x8 => some .getvalue
  | 0x9 => some (.tblrd (imm8Field b.word))
  | 0xA => some (.reflect (widthField b.word) b.data)
  | _ => none

/-- Decode, R75's pseudocode: no row for a reserved `OP`, and no command when a must-be-zero bit is 1. `none` is
`IllegalCommand`. -/
def decode (b : Beat) : Option Instr :=
  match opcodeTable[(opField b.word).toNat]? with
  | none => none
  | some row => if b.word &&& row.mask = row.pattern then instrOfRow b (opField b.word).toNat else none

/-- One bit as a command word, for the fields `RI` and `RO`. -/
def bitWord (x : Bool) : CmdWord := (BitVec.ofBool x).setWidth 32

/-- The beat of a command, from R72's bit patterns and R73's operand layout. `DATA` is 0 in a format that ignores it, as
the assembler emits it (R78). -/
def encode : Instr → Beat
  | .nop => ⟨0x0, 0⟩
  | .setpoly v => ⟨0x1, v⟩
  | .setinit v => ⟨0x2, v⟩
  | .setxorout v => ⟨0x3, v⟩
  | .config w ri ro => ⟨0x4#32 ||| (w.setWidth 32 <<< 16) ||| (bitWord ri <<< 23) ||| (bitWord ro <<< 24), 0⟩
  | .reset => ⟨0x5, 0⟩
  | .update b => ⟨0x6#32 ||| (b.setWidth 32 <<< 8), 0⟩
  | .updater o l => ⟨0x7, (l.setWidth 64 <<< 32) ||| o.setWidth 64⟩
  | .getvalue => ⟨0x8, 0⟩
  | .tblrd i => ⟨0x9#32 ||| (i.setWidth 32 <<< 8), 0⟩
  | .reflect w v => ⟨0xA#32 ||| (w.setWidth 32 <<< 16), v⟩

/-- The beat whose bits are those of the number `w`, of which the first `nbits` count and the rest are 0: the command word
is bits 31 to 0 and the data word the 64 bits above it (log entry 18). -/
def beatOfTableWord (nbits w : Nat) : Beat :=
  ⟨BitVec.ofNat 32 (w % 2 ^ nbits), BitVec.ofNat 64 ((w % 2 ^ nbits) / 2 ^ 32)⟩

/-- What the decoder reads from a row of spec/opcode_table.json given as a number (the host's fixed name). -/
def decodeTableWord (nbits w : Nat) : Option Instr :=
  decode (beatOfTableWord nbits w)

end Sys2Proof
end

