-- ==== Sys2Proof/Machine/State.lean ====
section
/-! DEFINITION. The state of the CRC core (10_state.md; its summary is R39), the reasons a step can stop, the moves of the
host and the core, and the state right after hardware reset (70_reset_and_hazards.md R230). Plain data throughout. -/

namespace Sys2Proof.Machine

/-- Why the machine stops. No command ever stops it: an error of the spec is a response (60_exceptions.md R200). -/
inductive Fault where
  /-- Raised by the move `setLength` (Machine/Port.lean) when the host sets `HBUF_LEN` above `HBUF_MAX`, which 20_memory.md
  R52 excludes (`HBUF_LEN ≤ HBUF_MAX`). Safe: the spec gives that host action no effect, and the model goes no further. Log
  entry 7. -/
  | hostLengthAboveMax
  deriving DecidableEq, Repr

/-- Why an instruction is refused. -/
inductive Refusal where
  /-- An instruction that has no meaning in the model, by its mnemonic. No arm of `exec` uses it: every row of the opcode
  map has its meaning. Safe. -/
  | notModelled (mnemonic : String)
  deriving DecidableEq, Repr

/-- The error conditions of R201, each with its cause rule. -/
inductive CommandError where
  /-- R204: CONFIG or REFLECT with a width of 0 or 65 to 127 -/
  | invalidParameter
  /-- R205: UPDATER beyond the host buffer -/
  | outOfRange
  /-- R203: a command that needs a configuration, before the first successful CONFIG -/
  | notConfigured
  /-- R202: a word that decode rejects -/
  | illegalCommand
  deriving DecidableEq, Repr

/-- One move of the run: an action of the host on the ports of R70, or the core's turn. The host's command sequence is
input (R38); the list of moves in State says which comes next (log entry 1). -/
inductive Move where
  /-- the core completes the command outstanding, if there is one; otherwise it is idle (R218) -/
  | core
  /-- the host presents a beat: `cmd_valid = 1` with `cmd_word` and `cmd_data` (R70, R81) -/
  | present (b : Beat)
  /-- the host writes one byte of its buffer (R51) -/
  | writeByte (index : BitVec 32) (value : Byte)
  /-- the host changes `HBUF_LEN` (R51) -/
  | setLength (n : BitVec 33)
  /-- the host drives `rst_n` to a level (R230) -/
  | driveReset (level : Bool)
  deriving DecidableEq, Repr

/-- The host's memory behind `HBUF`: the bytes the host has written, by index, in one canonical form (`Memory.wf` in
Machine/Ops.lean). -/
abbrev Memory := List Host.Cell

structure State where
  /-- `STG_POLY` (R20) -/
  stgPoly : Word
  /-- `STG_INIT` (R21) -/
  stgInit : Word
  /-- `STG_XOROUT` (R22) -/
  stgXorOut : Word
  /-- `CFG_WIDTH` (R23) -/
  cfgWidth : BitVec 7
  /-- `CFG_POLY` (R24) -/
  cfgPoly : Word
  /-- `CFG_INIT` (R25) -/
  cfgInit : Word
  /-- `CFG_XOROUT` (R26) -/
  cfgXorOut : Word
  /-- `CFG_REFIN` (R27) -/
  cfgRefIn : Bool
  /-- `CFG_REFOUT` (R28) -/
  cfgRefOut : Bool
  /-- `CONFIGURED` (R29) -/
  configured : Bool
  /-- `TABLE` (R30) -/
  table : Vector Word 256
  /-- `CRC` (R31) -/
  crc : Word
  /-- `RSP_STATUS` (R32) -/
  rspStatus : BitVec 3
  /-- `RSP_DATA` (R32) -/
  rspData : Word
  /-- the output port `rsp_valid` (R70, R81) -/
  rspValid : Bool
  /-- the level of the input port `rst_n` (R70, R230) -/
  rstN : Bool
  /-- the host's bytes behind `HBUF` (R33, R51) -/
  hbuf : Memory
  /-- `HBUF_LEN` (R52), the input port `hb_len` -/
  hbufLen : BitVec 33
  /-- the command issued and not yet answered (R81: at most one) -/
  outstanding : Option Beat
  /-- the `HBUF_LEN` sampled when that command was issued: `L` of R165 (R62) -/
  lenAtIssue : BitVec 33
  /-- the indexes the host has written since that command was issued, no repeats (R62; log entry 9) -/
  touched : List Nat
  /-- whether the host has changed `HBUF_LEN` since that command was issued (R62; log entry 10) -/
  lenChanged : Bool
  /-- the model's own counter of free draws (R62; log entry 9) -/
  draws : Nat
  /-- the moves still to come, first move first (log entry 1) -/
  schedule : List Move
  deriving DecidableEq, Repr

/-- The state right after hardware reset (R230), `rst_n` back at 1. The spec leaves the parameter set, `TABLE` and `CRC`
unspecified: their zeros are DESIGN CHOICE, unsafe (log entry 4), and so are the host's empty buffer (log entry 6) and the
model's own fields (log entries 1, 9, 13). -/
def State.reset : State where
  stgPoly := 0
  stgInit := 0
  stgXorOut := 0
  cfgWidth := 0
  cfgPoly := 0
  cfgInit := 0
  cfgXorOut := 0
  cfgRefIn := false
  cfgRefOut := false
  configured := false
  table := Vector.replicate 256 0
  crc := 0
  rspStatus := 0
  rspData := 0
  rspValid := false
  rstN := true
  hbuf := []
  hbufLen := 0
  outstanding := none
  lenAtIssue := 0
  touched := []
  lenChanged := false
  draws := 0
  schedule := []

end Sys2Proof.Machine
end

