-- ==== Sys2Proof/Machine/Flags.lean ====
section
/-! DEFINITION. The flags of the core. There are two only: `CONFIGURED` and the response status (10_state.md R35). There
are no condition codes. -/

namespace Sys2Proof.Machine

/-- The status code of a command without an error: 0, `OK` (R201). -/
def statusOk : BitVec 3 := 0

/-- The status code of an error (R201). Codes 5 to 7 are reserved and never produced. -/
def errorCode : CommandError → BitVec 3
  | .invalidParameter => 1
  | .outOfRange => 2
  | .notConfigured => 3
  | .illegalCommand => 4

end Sys2Proof.Machine
end

