-- ==== Sys2Proof/Machine/Operands.lean ====
section
/-! DEFINITION. The operand checks of the commands (60_exceptions.md R204, R205). The operands themselves are assembled by
decode (30_encoding.md R73) and are exact: nothing is sign-extended, scaled or wrapped. -/

namespace Sys2Proof.Machine

/-- A width operand is legal when it is 1 to 64; 0 and 65 to 127 raise `InvalidParameter` (R73, R204). -/
def widthLegal (w : BitVec 7) : Bool := 1 ≤ w.toNat && w.toNat ≤ 64

/-- UPDATER's range lies in a buffer of `len` bytes: `offset + length ≤ len`, the sum exact, with no wrap-around (R165,
R205). -/
def rangeLegal (offset length : BitVec 32) (len : BitVec 33) : Bool := offset.toNat + length.toNat ≤ len.toNat

end Sys2Proof.Machine
end

