-- ==== Sys2Proof/Machine/Ops.lean ====
section
/-! DEFINITION. The operations the commands share: masks and bit gathering (00_scope.md R7), the host buffer
(20_memory.md R51, R52), a table entry (R53), a response and an error (30_encoding.md R80, 60_exceptions.md R200). -/

namespace Sys2Proof.Machine

/-- `mask(w) = 2^w − 1` (R7). -/
def mask (w : Nat) : Word := BitVec.ofNat 64 (2 ^ w - 1)

/-- The word whose bits 0 to `n − 1` are `f 0` to `f (n − 1)` and whose other bits are 0: the loop `y[i] <- f(i)` of R101
and R102. -/
def gatherBits (f : Nat → Bool) : Nat → Word
  | 0 => 0
  | n + 1 => gatherBits f n ||| (if f n then 1#64 <<< n else 0)

/-- The byte listed at an index, `none` where the host has written none. -/
def Memory.read : Memory → Nat → Option Byte
  | [], _ => none
  | (j, v) :: rest, i => if i = j then some v else Memory.read rest i

/-- Write one byte, keeping the indexes strictly rising. -/
def Memory.write : Memory → Nat → Byte → Memory
  | [], i, v => [(i, v)]
  | (j, u) :: rest, i, v =>
    if i < j then (i, v) :: (j, u) :: rest
    else if i = j then (i, v) :: rest
    else (j, u) :: Memory.write rest i v

/-- The canonical form: indexes strictly rising and below `2^32` (R52). An unlisted index reads as `none`, which no entry
can equal, so that equal memories are equal lists. -/
abbrev Memory.wf (m : Memory) : Prop :=
  m.Pairwise (fun a b => a.1 < b.1) ∧ ∀ c ∈ m, c.1 < 2 ^ 32

/-- What an index the host has not written holds: a free byte, one per index (log entry 5). -/
def unlistedByte (i : Nat) : Byte := Config.unwrittenByte i

/-- `HBufRead(i)` (R9, R52). -/
def hbufRead (s : State) (i : Nat) : Byte := (Memory.read s.hbuf i).getD (unlistedByte i)

/-- `S.TABLE[i]` for an 8-bit index, never out of range (R9, R53). -/
def tableEntryAt (t : Vector Word 256) (i : BitVec 8) : Word := t[i.toNat]'i.isLt

/-- `respond(status, data)` (R9, R80, R81): both response registers are written together, the response is present and the
command is no longer outstanding. -/
def respond (status : BitVec 3) (data : Word) (s : State) : State :=
  { s with rspStatus := status, rspData := data, rspValid := true, outstanding := none }

/-- `raise <Error>` (R9, R200, R206, R210): taking an error is a response with the error's code and data 0, and changes
nothing else. No register is saved, no mode changes and there is no vector; the next command runs as after a NOP that
responded with the code, so there is no return operation (R211). -/
def raise (e : CommandError) (s : State) : State := respond (errorCode e) 0 s

/-- The check of `CONFIGURED` that RESET, UPDATE, UPDATER, GETVALUE and TBLRD make before anything else (R203, R207). -/
def whenConfigured (s : State) (result : State) : State :=
  if s.configured then result else raise .notConfigured s

end Sys2Proof.Machine
end

