-- ==== Sys2Proof/Machine/BitReflect.lean ====
section
/-! DEFINITION. The bit reflect unit and REFLECT (40_bit_reflect.md R100 to R105). -/

namespace Sys2Proof.Machine

/-- `BitRev64(x)`: `y[i] <- x[63 - i]` for `i` in 0 to 63 (R101). -/
def bitRev64 (x : Word) : Word := gatherBits (fun i => x.getLsbD (63 - i)) 64

/-- `Reflect(x, k)` for `1 ≤ k ≤ 64`: `y[i] <- x[k - 1 - i]` for `i` in 0 to `k − 1`, the other bits 0 (R102). -/
def reflect (x : Word) (k : Nat) : Word := gatherBits (fun i => x.getLsbD (k - 1 - i)) k

/-- REFLECT (R105). It does not read `CONFIGURED`. -/
def execReflect (width : BitVec 7) (value : Word) (s : State) : Host.Outcome State Fault Refusal :=
  if widthLegal width then .next (respond statusOk (reflect value width.toNat) s)
  else .next (raise .invalidParameter s)

end Sys2Proof.Machine
end

