-- ==== Sys2Proof/Machine/TableBuilder.lean ====
section
/-! DEFINITION. The table builder and TBLRD (41_table_builder.md R120 to R126). `BuildTable` is a pure function of
`(w, p, ri)` (R124 item 5). -/

namespace Sys2Proof.Machine

/-- One iteration of the reflected loop (R121). -/
def reflectedStep (rp c : Word) : Word := if c.getLsbD 0 then (c >>> 1) ^^^ rp else c >>> 1

/-- Entry `i` of the reflected table: 8 iterations from `zext_64(i)` (R121). -/
def reflectedEntry (rp : Word) (i : Nat) : Word := (reflectedStep rp)^[8] (BitVec.ofNat 64 i)

/-- One iteration of the unreflected loop; `<<` is modulo 2^64 (R122). -/
def alignedStep (ap c : Word) : Word := if c.getLsbD 63 then (c <<< 1) ^^^ ap else c <<< 1

/-- Entry `i` of the unreflected table: 8 iterations from `zext_64(i) << 56` (R122). -/
def alignedEntry (ap : Word) (i : Nat) : Word := (alignedStep ap)^[8] (BitVec.ofNat 64 i <<< 56)

/-- Entry `i` of `BuildTable(w, p, ri)` (R121 for `ri = 1`, R122 for `ri = 0`). -/
def builtEntry (w : Nat) (p : Word) (ri : Bool) (i : Nat) : Word :=
  if ri then reflectedEntry (reflect p w) i else alignedEntry (p <<< (64 - w)) i

/-- `BuildTable(w, p, ri)`, 256 entries (R120). -/
def buildTable (w : Nat) (p : Word) (ri : Bool) : Vector Word 256 :=
  ⟨((List.range 256).map (builtEntry w p ri)).toArray, by simp⟩

/-- TBLRD (R126): the entry as stored, with no mask and no shift. -/
def execTblrd (index : BitVec 8) (s : State) : Host.Outcome State Fault Refusal :=
  .next (whenConfigured s (respond statusOk (tableEntryAt s.table index) s))

end Sys2Proof.Machine
end

