-- ==== Sys2Proof/Machine/RegisterEngine.lean ====
section
/-! DEFINITION. The register engine: `InitialCrc`, `StepByte`, RESET, UPDATE and UPDATER (43_register_engine.md R160 to
R165). -/

namespace Sys2Proof.Machine

/-- `InitialCrc(w, init, ri)` (R161; reflection within the width, 90_conflicts.md C1). -/
def initialCrc (w : Nat) (init : Word) (ri : Bool) : Word :=
  if ri then reflect init w else init <<< (64 - w)

/-- `StepByte(c, b)` (R162): the two table indexes are the low byte of `c ^ b` and the top byte of `c`, exclusive-or `b`. -/
def stepByte (t : Vector Word 256) (ri : Bool) (c : Word) (b : Byte) : Word :=
  if ri then (c >>> 8) ^^^ tableEntryAt t (((c ^^^ b.setWidth 64) &&& 0xFF#64).setWidth 8)
  else (c <<< 8) ^^^ tableEntryAt t ((((c >>> 56) ^^^ b.setWidth 64) &&& 0xFF#64).setWidth 8)

/-- The register after a sequence of bytes, first byte first (R54). -/
def stepBytes (t : Vector Word 256) (ri : Bool) (c : Word) (bytes : List Byte) : Word :=
  bytes.foldl (stepByte t ri) c

/-- RESET (R163). -/
def execReset (s : State) : Host.Outcome State Fault Refusal :=
  .next (whenConfigured s
    (respond statusOk 0 { s with crc := initialCrc s.cfgWidth.toNat s.cfgInit s.cfgRefIn }))

/-- UPDATE (R164). -/
def execUpdate (byte : Byte) (s : State) : Host.Outcome State Fault Refusal :=
  .next (whenConfigured s (respond statusOk 0 { s with crc := stepByte s.table s.cfgRefIn s.crc byte }))

/-- Whether the byte at an index is raced: the host wrote it, or changed `HBUF_LEN`, since the command was issued (R62,
93_implementation_defined.md U8). -/
def raced (s : State) (i : Nat) : Bool := s.lenChanged || s.touched.contains i

/-- The byte an UPDATER from `offset` consumes at its position `j`: `HBufRead(offset + j)`, or a free draw where the byte
is raced (R165, R62). -/
def consumedByte (s : State) (offset j : Nat) : Byte :=
  if raced s (offset + j) then Config.racedByte (s.draws + j) else hbufRead s (offset + j)

/-- The bytes an UPDATER consumes, in increasing index order (R54). -/
def consumedBytes (s : State) (offset length : Nat) : List Byte :=
  (List.range length).map (consumedByte s offset)

/-- UPDATER (R165): `NotConfigured`, then `OutOfRange` against the length sampled at issue, then the bytes in order; `CRC`
is written once, at the end. The counter of free draws moves past this command's positions (log entry 9). -/
def execUpdater (offset length : BitVec 32) (s : State) : Host.Outcome State Fault Refusal :=
  .next (whenConfigured s
    (if rangeLegal offset length s.lenAtIssue then
      respond statusOk 0 { s with
        crc := stepBytes s.table s.cfgRefIn s.crc (consumedBytes s offset.toNat length.toNat)
        draws := s.draws + length.toNat }
    else raise .outOfRange s))

end Sys2Proof.Machine
end

