-- ==== Sys2Proof/Machine/Configuration.lean ====
section
/-! DEFINITION. NOP, the three staging writes and CONFIG (42_configuration.md R140 to R144). -/

namespace Sys2Proof.Machine

/-- NOP (R140). -/
def execNop (s : State) : Host.Outcome State Fault Refusal := .next (respond statusOk 0 s)

/-- SETPOLY (R141). -/
def execSetpoly (value : Word) (s : State) : Host.Outcome State Fault Refusal :=
  .next (respond statusOk 0 { s with stgPoly := value })

/-- SETINIT (R142). -/
def execSetinit (value : Word) (s : State) : Host.Outcome State Fault Refusal :=
  .next (respond statusOk 0 { s with stgInit := value })

/-- SETXOROUT (R143). -/
def execSetxorout (value : Word) (s : State) : Host.Outcome State Fault Refusal :=
  .next (respond statusOk 0 { s with stgXorOut := value })

/-- What a successful CONFIG writes, all together (R144, R125): the parameter set masked to the width, the table, the
register and the flag. The staging registers are not changed. -/
def latch (width : BitVec 7) (refIn refOut : Bool) (s : State) : State :=
  let w := width.toNat
  { s with
    cfgWidth := width
    cfgPoly := s.stgPoly &&& mask w
    cfgInit := s.stgInit &&& mask w
    cfgXorOut := s.stgXorOut &&& mask w
    cfgRefIn := refIn
    cfgRefOut := refOut
    table := buildTable w (s.stgPoly &&& mask w) refIn
    crc := initialCrc w (s.stgInit &&& mask w) refIn
    configured := true }

/-- CONFIG (R144): the width is checked before any table is built. It does not read `CONFIGURED`. -/
def execConfig (width : BitVec 7) (refIn refOut : Bool) (s : State) : Host.Outcome State Fault Refusal :=
  if widthLegal width then .next (respond statusOk 0 (latch width refIn refOut s))
  else .next (raise .invalidParameter s)

end Sys2Proof.Machine
end

