-- ==== Sys2Proof/Machine/Finalization.lean ====
section
/-! DEFINITION. Finalisation and GETVALUE (44_finalization.md R180 to R182). -/

namespace Sys2Proof.Machine

/-- The first three lines of `Finalize(c)`: the value before the final mask, for width `w`, `refIn` `ri`, `refOut` `ro`
and `xorOut` `x` (R180). -/
def unmaskedChecksum (w : Nat) (ri ro : Bool) (x c : Word) : Word :=
  let xo := if ro then x else x <<< (64 - w)
  let r := if ro = ri then c ^^^ xo else bitRev64 c ^^^ xo
  if ro then r else r >>> (64 - w)

/-- `Finalize(c)` (R180): masked to the width. -/
def finalize (w : Nat) (ri ro : Bool) (x c : Word) : Word := unmaskedChecksum w ri ro x c &&& mask w

/-- The checksum of the current register under the active parameter set (R180, R181). -/
def checksum (s : State) : Word := finalize s.cfgWidth.toNat s.cfgRefIn s.cfgRefOut s.cfgXorOut s.crc

/-- GETVALUE (R181). -/
def execGetvalue (s : State) : Host.Outcome State Fault Refusal :=
  .next (whenConfigured s (respond statusOk (checksum s) s))

end Sys2Proof.Machine
end

