-- ==== Sys2Proof/Machine/Dispatch.lean ====
section
/-! DEFINITION. One arm per constructor of `Instr`, each a direct call of its meaning. -/

namespace Sys2Proof.Machine

def exec (i : Instr) (s : State) : Host.Outcome State Fault Refusal :=
  match i with
  | .nop => Sys2Proof.Machine.execNop s
  | .setpoly value => Sys2Proof.Machine.execSetpoly value s
  | .setinit value => Sys2Proof.Machine.execSetinit value s
  | .setxorout value => Sys2Proof.Machine.execSetxorout value s
  | .config width refIn refOut => Sys2Proof.Machine.execConfig width refIn refOut s
  | .reset => Sys2Proof.Machine.execReset s
  | .update byte => Sys2Proof.Machine.execUpdate byte s
  | .updater offset length => Sys2Proof.Machine.execUpdater offset length s
  | .getvalue => Sys2Proof.Machine.execGetvalue s
  | .tblrd index => Sys2Proof.Machine.execTblrd index s
  | .reflect width value => Sys2Proof.Machine.execReflect width value s

end Sys2Proof.Machine
end

