-- ==== Sys2Proof/Machine/Port.lean ====
section
/-! DEFINITION. The moves on the ports: the handshake (30_encoding.md R81), the host's writes of its buffer (20_memory.md
R51, R62), hardware reset (70_reset_and_hazards.md R230, R231) and the core's turn. -/

namespace Sys2Proof.Machine

/-- The output port `cmd_ready`: the core can accept a command when it is not held in reset (R230) and no command is
outstanding (R81). Log entry 12. -/
def cmdReady (s : State) : Bool := s.rstN && s.outstanding.isNone

/-- Issuing a command (R81): it becomes outstanding, the earlier response is no longer present, and `HBUF_LEN` is sampled
(R165, R62). -/
def issue (b : Beat) (s : State) : State :=
  { s with outstanding := some b, rspValid := false, lenAtIssue := s.hbufLen, touched := [], lenChanged := false }

/-- The host presents a beat: it is issued when `cmd_ready = 1` (R81) and nothing happens otherwise (log entry 3). -/
def presentBeat (b : Beat) (s : State) : State := if cmdReady s then issue b s else s

/-- The host writes one byte of its buffer (R51). While a command is outstanding the index is remembered as raced (R62). -/
def hostWriteByte (index : BitVec 32) (value : Byte) (s : State) : State :=
  { s with
    hbuf := Memory.write s.hbuf index.toNat value
    touched := if s.outstanding.isSome then s.touched.insert index.toNat else s.touched }

/-- The host changes `HBUF_LEN` (R51). While a command is outstanding the change is remembered (R62). -/
def hostSetLength (n : BitVec 33) (s : State) : State :=
  { s with
    hbufLen := n
    lenChanged := s.lenChanged || (s.outstanding.isSome && n != s.hbufLen) }

/-- The hardware-reset values of R230 in every element but the host's: `HBUF` and `HBUF_LEN` are not reset. A command in
flight is abandoned, with no response (R231). The moves still to come and the counter of free draws are not the core's. -/
def resetCore (s : State) : State :=
  { State.reset with
    hbuf := s.hbuf
    hbufLen := s.hbufLen
    draws := s.draws
    schedule := s.schedule
    rstN := s.rstN }

/-- The host drives `rst_n` (R230): at 0 the core is held in reset and accepts no command; when it returns to 1 every
element holds its hardware-reset value. Driving 1 when it is 1 changes nothing. Log entry 11. -/
def driveRstN (level : Bool) (s : State) : State :=
  if level && s.rstN then s else { resetCore s with rstN := level }

/-- The core's turn: the outstanding command is decoded and run, a word that decode rejects raises `IllegalCommand` (R75);
with nothing outstanding the core is idle and holds all state (R218). -/
def coreTurn (run : Instr → State → Host.Outcome State Fault Refusal) (s : State) : Host.Outcome State Fault Refusal :=
  match s.outstanding with
  | none => .next s
  | some b =>
    match decode b with
    | some i => run i s
    | none => .next (raise .illegalCommand s)

/-- One move. A length above `HBUF_MAX` is no length the host may set (R52; log entry 7). -/
def takeMove (run : Instr → State → Host.Outcome State Fault Refusal) (m : Move) (s : State) :
    Host.Outcome State Fault Refusal :=
  match m with
  | .core => coreTurn run s
  | .present b => .next (presentBeat b s)
  | .writeByte i v => .next (hostWriteByte i v s)
  | .setLength n => if n.toNat ≤ Config.hbufMax then .next (hostSetLength n s) else .fault .hostLengthAboveMax
  | .driveReset level => .next (driveRstN level s)

/-- One step: the first move of the schedule is taken off it and made; with no move left it is the core's turn. -/
def scheduledStep (run : Instr → State → Host.Outcome State Fault Refusal) (s : State) : Host.Outcome State Fault Refusal :=
  match s.schedule with
  | [] => coreTurn run s
  | m :: rest => takeMove run m { s with schedule := rest }

/-- The moves of a host that issues beats one after another and waits for each response. -/
def movesOfBeats (beats : List Beat) : List Move := beats.flatMap (fun b => [.present b, .core])

/-- The state in which a beat has just been issued and the core's turn comes next. -/
def issuedNext (b : Beat) (s : State) : State :=
  { issue b s with rstN := true, schedule := .core :: s.schedule }

end Sys2Proof.Machine
end

