-- ==== Sys2Proof/Machine/Step.lean ====
section
/-! DEFINITION. One step of the machine: one move (log entry 1), with `exec` as the meaning of a command. -/

namespace Sys2Proof.Machine

/-- One step: the next move of the schedule. -/
def step (s : State) : Host.Outcome State Fault Refusal := scheduledStep exec s

/-- The commands of a list, one after another, each run by `exec` (R10, R61): for statements about sequences. -/
def execAll : List Instr → State → Host.Outcome State Fault Refusal
  | [], s => .next s
  | i :: rest, s =>
    match exec i s with
    | .next t => execAll rest t
    | .fault r => .fault r
    | .refused r => .refused r

/-- `s` with the instruction of the number `w` issued, so that the very next step runs it (the host's fixed name; log
entry 18). The core fetches no instruction (R65): commands arrive on the command port, so the place of the next instruction
is the outstanding command. -/
def State.withFetchWord (s : State) (nbits w : Nat) : State := issuedNext (beatOfTableWord nbits w) s

end Sys2Proof.Machine
end

