-- ==== Sys2Proof/Machine/Assembler.lean ====
section
/-! DEFINITION. The assembler of 30_encoding.md R78 and R79: a line's text to an `AsmLine`, and an `AsmLine` to beats. It is
no part of the core: it says which beats a line of the spec's programs stands for. What R78 leaves open about the text (white
space, empty lines, letter case) is log entry 17. -/

namespace Sys2Proof.Machine

/-- The beat an R78 line encodes, from the second column of R78's table. -/
def lineBeat : CoreLine → Beat
  | .nop => ⟨0x00000000, 0⟩
  | .setpoly v => ⟨0x00000001, BitVec.ofNat 64 v⟩
  | .setinit v => ⟨0x00000002, BitVec.ofNat 64 v⟩
  | .setxorout v => ⟨0x00000003, BitVec.ofNat 64 v⟩
  | .config w ri ro => ⟨BitVec.ofNat 32 (0x4 ||| (w <<< 16) ||| (ri <<< 23) ||| (ro <<< 24)), 0⟩
  | .reset => ⟨0x00000005, 0⟩
  | .update b => ⟨BitVec.ofNat 32 (0x6 ||| (b <<< 8)), 0⟩
  | .updater o l => ⟨0x00000007, BitVec.ofNat 64 ((l <<< 32) ||| o)⟩
  | .getvalue => ⟨0x00000008, 0⟩
  | .tblrd i => ⟨BitVec.ofNat 32 (0x9 ||| (i <<< 8)), 0⟩
  | .reflect w v => ⟨BitVec.ofNat 32 (0xA ||| (w <<< 16)), BitVec.ofNat 64 v⟩

/-- The beats of a line; `none` where the assembler rejects an operand that does not fit its field (R78). -/
def assemble (l : AsmLine) : Option (List Beat) :=
  if l.wellFormed then some (l.expand.map lineBeat) else none

/-- White space within a line (log entry 17). -/
def isBlank (c : Char) : Bool := c = ' ' || c = '\t' || c = '\r'

/-- The text with white space taken off both ends. -/
def trimBlanks (cs : List Char) : List Char :=
  ((cs.dropWhile isBlank).reverse.dropWhile isBlank).reverse

/-- "A `;` begins a comment" (R78). -/
def dropComment (cs : List Char) : List Char := cs.takeWhile (fun c => c != ';')

/-- The pieces between the separators. -/
def splitAtChar (sep : Char) : List Char → List (List Char)
  | [] => [[]]
  | c :: cs =>
    match splitAtChar sep cs with
    | [] => [[c]]
    | piece :: rest => if c = sep then [] :: piece :: rest else (c :: piece) :: rest

/-- The value of a digit in a base up to 16. -/
def digitValue (base : Nat) (c : Char) : Option Nat :=
  let n := c.toNat
  let v := if 48 ≤ n && n ≤ 57 then n - 48 else if 97 ≤ n && n ≤ 102 then n - 87
    else if 65 ≤ n && n ≤ 70 then n - 55 else base
  if v < base then some v else none

/-- A number in a base, its first digit first. -/
def digitsValue (base : Nat) : List Char → Nat → Option Nat
  | [], acc => some acc
  | c :: cs, acc =>
    match digitValue base c with
    | some d => digitsValue base cs (acc * base + d)
    | none => none

/-- "An immediate is decimal or `0x`-prefixed hexadecimal" (R78). -/
def immediate : List Char → Option Nat
  | [] => none
  | '0' :: 'x' :: c :: cs => digitsValue 16 (c :: cs) 0
  | c :: cs => digitsValue 10 (c :: cs) 0

/-- The immediates of an operand list, "operands separated by commas" (R78); no text is no operand. -/
def immediates (cs : List Char) : Option (List Nat) :=
  if (trimBlanks cs).isEmpty then some []
  else (splitAtChar ',' cs).mapM (fun piece => immediate (trimBlanks piece))

/-- "mnemonic in lower or upper case" (R78). -/
def lowerLetters (cs : List Char) : List Char := cs.map Char.toLower

/-- The line a mnemonic in lower case and its immediates stand for (R78, R79). -/
def lineOf (mnemonic : List Char) (operands : List Nat) : Option AsmLine :=
  if mnemonic = "updates".toList then some (.updates operands)
  else match operands with
    | [] =>
      if mnemonic = "nop".toList then some (.core .nop)
      else if mnemonic = "reset".toList then some (.core .reset)
      else if mnemonic = "getvalue".toList then some (.core .getvalue)
      else none
    | [a] =>
      if mnemonic = "setpoly".toList then some (.core (.setpoly a))
      else if mnemonic = "setinit".toList then some (.core (.setinit a))
      else if mnemonic = "setxorout".toList then some (.core (.setxorout a))
      else if mnemonic = "update".toList then some (.core (.update a))
      else if mnemonic = "tblrd".toList then some (.core (.tblrd a))
      else if mnemonic = "bitrev64".toList then some (.bitrev64 a)
      else none
    | [a, b] =>
      if mnemonic = "updater".toList then some (.core (.updater a b))
      else if mnemonic = "reflect".toList then some (.core (.reflect a b))
      else none
    | [a, b, c] => if mnemonic = "config".toList then some (.core (.config a b c)) else none
    | [w, p, i, ri, ro, x] => if mnemonic = "crcparams".toList then some (.crcparams w p i ri ro x) else none
    | _ => none

/-- The preset names of R79. -/
def presetOf (name : List Char) : Option AsmLine :=
  if name = "crc32".toList then some .presetCrc32
  else if name = "crc64xz".toList then some .presetCrc64xz
  else none

/-- A line's text. `some none` is a line with no command (empty, or a comment only), `none` a line that is rejected. -/
def parseLine (text : List Char) : Option (Option AsmLine) :=
  let body := trimBlanks (dropComment text)
  let mnemonic := lowerLetters (body.takeWhile (fun c => !isBlank c))
  let rest := trimBlanks (body.dropWhile (fun c => !isBlank c))
  if body.isEmpty then some none
  else if mnemonic = "preset".toList then (presetOf (lowerLetters rest)).map some
  else match immediates rest with
    | some operands => (lineOf mnemonic operands).map some
    | none => none

/-- The beats of one line's text. -/
def assembleLine (text : List Char) : Option (List Beat) :=
  match parseLine text with
  | none => none
  | some none => some []
  | some (some l) => assemble l

/-- The beats of a text, "one command per line" (R78), in order; `none` when any line is rejected. -/
def assembleText (text : List Char) : Option (List Beat) :=
  ((splitAtChar '\n' text).mapM assembleLine).map List.flatten

end Sys2Proof.Machine
end

