-- ==== Sys2Proof/Machine/Reference.lean ====
section
/-! DEFINITION. The bit-by-bit reference `RefCrc` (95_test_vectors.md section 1), which R167 compares the engine with. The
spec marks it as supplied from general knowledge (93_implementation_defined.md G2; log entry 19). No command uses it. -/

namespace Sys2Proof.Machine

/-- One input bit: `top <- reg[w-1] ^ bit`, a shift within the width, and the polynomial where `top` is 1. -/
def refBit (w : Nat) (poly reg : Word) (bit : Bool) : Word :=
  let shifted := (reg <<< 1) &&& mask w
  if Bool.xor (reg.getLsbD (w - 1)) bit then shifted ^^^ (poly &&& mask w) else shifted

/-- One input byte: reflected first when `refIn = 1`, then its bits from bit 7 down to bit 0. -/
def refByte (w : Nat) (poly : Word) (refIn : Bool) (reg : Word) (b : Byte) : Word :=
  let v : Word := if refIn then reflect (b.setWidth 64) 8 else b.setWidth 64
  [7, 6, 5, 4, 3, 2, 1, 0].foldl (fun r k => refBit w poly r (v.getLsbD k)) reg

/-- `RefCrc(w, poly, init, refIn, refOut, xorOut, bytes)`. -/
def refCrc (w : Nat) (poly init : Word) (refIn refOut : Bool) (xorOut : Word) (bytes : List Byte) : Word :=
  let reg := bytes.foldl (refByte w poly refIn) (init &&& mask w)
  let out := if refOut then reflect reg w else reg
  (out ^^^ xorOut) &&& mask w

end Sys2Proof.Machine
end

