-- ==== Sys2Proof/Safety.lean ====
section
/-! DEFINITION. What claims about the machine speak of: the invariants of 10_state.md R37 and of the ports, and the sameness
of two states up to what the spec says nothing can observe. -/

namespace Sys2Proof.Machine

/-- R37, items 1 to 5, in its own words: what holds of the parameter set, the table and the register while
`CONFIGURED = 1`. -/
structure RegisterInv (s : State) : Prop where
  /-- item 1 -/
  width_legal : s.configured = true → 1 ≤ s.cfgWidth.toNat ∧ s.cfgWidth.toNat ≤ 64
  /-- item 2 -/
  poly_fits : s.configured = true → s.cfgPoly.toNat < 2 ^ s.cfgWidth.toNat
  /-- item 2 -/
  init_fits : s.configured = true → s.cfgInit.toNat < 2 ^ s.cfgWidth.toNat
  /-- item 2 -/
  xorOut_fits : s.configured = true → s.cfgXorOut.toNat < 2 ^ s.cfgWidth.toNat
  /-- item 3 -/
  table_built : s.configured = true → s.table = buildTable s.cfgWidth.toNat s.cfgPoly s.cfgRefIn
  /-- item 4 -/
  crc_low : s.configured = true → s.cfgRefIn = true → s.crc.toNat < 2 ^ s.cfgWidth.toNat
  /-- item 4 -/
  table_low : s.configured = true → s.cfgRefIn = true →
    ∀ i : BitVec 8, (tableEntryAt s.table i).toNat < 2 ^ s.cfgWidth.toNat
  /-- item 5 -/
  crc_high : s.configured = true → s.cfgRefIn = false → s.crc &&& mask (64 - s.cfgWidth.toNat) = 0
  /-- item 5 -/
  table_high : s.configured = true → s.cfgRefIn = false →
    ∀ i : BitVec 8, tableEntryAt s.table i &&& mask (64 - s.cfgWidth.toNat) = 0

/-- What the ports and the host buffer keep: the buffer's canonical form (log entry 5), its length bound (R52) and that of the
sampled length (log entry 13), the status codes (R201), data 0 with an error (R80), no response present while a command is
outstanding (R81), and nothing outstanding, present or configured while the core is held in reset (log entry 11). -/
structure PortInv (s : State) : Prop where
  hbuf_canonical : Memory.wf s.hbuf
  length_bounded : s.hbufLen.toNat ≤ Config.hbufMax
  sample_bounded : s.lenAtIssue.toNat ≤ Config.hbufMax
  status_known : s.rspStatus.toNat ≤ 4
  error_data_zero : s.rspStatus ≠ 0 → s.rspData = 0
  outstanding_unanswered : s.outstanding.isSome = true → s.rspValid = false
  held_in_reset : s.rstN = false → s.outstanding = none ∧ s.rspValid = false ∧ s.configured = false

/-- `t` with the parameter set, `TABLE` and `CRC` of `s`. -/
def withParametersOf (s t : State) : State :=
  { t with
    cfgWidth := s.cfgWidth, cfgPoly := s.cfgPoly, cfgInit := s.cfgInit, cfgXorOut := s.cfgXorOut
    cfgRefIn := s.cfgRefIn, cfgRefOut := s.cfgRefOut, table := s.table, crc := s.crc }

/-- Two states that no command may tell apart (R29 to R31, R230): the same, or both unconfigured and the same but for the
parameter set, `TABLE` and `CRC`. -/
def Indistinguishable (s t : State) : Prop :=
  s = t ∨ (s.configured = false ∧ t.configured = false ∧ withParametersOf s t = s)

/-- Two outcomes that agree: both the same fault, the same refusal, or next states related by `R`. -/
def OutcomesAgree (R : State → State → Prop) : Host.Outcome State Fault Refusal → Host.Outcome State Fault Refusal → Prop
  | .next s, .next t => R s t
  | .fault a, .fault b => a = b
  | .refused a, .refused b => a = b
  | .next _, .fault _ => False
  | .next _, .refused _ => False
  | .fault _, .next _ => False
  | .fault _, .refused _ => False
  | .refused _, .next _ => False
  | .refused _, .fault _ => False

/-- No byte is raced: the host has neither written its buffer nor changed its length since the command was issued (the
condition of R237). -/
def QuietHost (s : State) : Prop := s.touched = [] ∧ s.lenChanged = false

/-- The values R230 gives after hardware reset hold in `t`, and the host's buffer is as in `s`. Nothing is said of the elements
R230 leaves unspecified. -/
structure HasResetValues (s t : State) : Prop where
  stgPoly_zero : t.stgPoly = 0
  stgInit_zero : t.stgInit = 0
  stgXorOut_zero : t.stgXorOut = 0
  not_configured : t.configured = false
  status_zero : t.rspStatus = 0
  data_zero : t.rspData = 0
  no_response : t.rspValid = false
  nothing_outstanding : t.outstanding = none
  same_length : t.hbufLen = s.hbufLen
  same_bytes : ∀ a : Nat, hbufRead t a = hbufRead s a

/-- The commands that read `CONFIGURED` (R203). -/
def needsConfiguration : Instr → Bool
  | .nop => false
  | .setpoly _ => false
  | .setinit _ => false
  | .setxorout _ => false
  | .config _ _ _ => false
  | .reset => true
  | .update _ => true
  | .updater _ _ => true
  | .getvalue => true
  | .tblrd _ => true
  | .reflect _ _ => false

/-- The status a command is due, in the order of R207: `IllegalCommand` (`none` is a word decode rejects), then
`NotConfigured`, then the operand errors of R204 and R205. -/
def dueStatus (s : State) : Option Instr → BitVec 3
  | none => 4
  | some i =>
    if needsConfiguration i = true ∧ s.configured = false then 3
    else match i with
      | .config w _ _ => if w.toNat = 0 ∨ 65 ≤ w.toNat then 1 else 0
      | .reflect w _ => if w.toNat = 0 ∨ 65 ≤ w.toNat then 1 else 0
      | .updater o l => if s.lenAtIssue.toNat < o.toNat + l.toNat then 2 else 0
      | _ => 0

/-- The response data a command without an error is due (the table of R80). -/
def dueData (s : State) : Option Instr → Word
  | some .getvalue => checksum s
  | some (.tblrd i) => tableEntryAt s.table i
  | some (.reflect w v) => reflect v w.toNat
  | _ => 0

/-- The bytes a command consumes when no byte is raced: UPDATE its operand, UPDATER its range of the host buffer in
increasing index order (R54), every other command none. -/
def inputBytes (s : State) : Instr → List Byte
  | .update b => [b]
  | .updater o l => (List.range l.toNat).map (fun j => hbufRead s (o.toNat + j))
  | _ => []

/-- An UPDATE, or an UPDATER within the sampled length. -/
def isInput (s : State) : Instr → Bool
  | .update _ => true
  | .updater o l => rangeLegal o l s.lenAtIssue
  | _ => false

/-- SETPOLY, SETINIT or SETXOROUT. -/
def isStagingWrite : Instr → Bool
  | .setpoly _ => true
  | .setinit _ => true
  | .setxorout _ => true
  | _ => false

/-- A CONFIG that succeeds: one with a width of 1 to 64 (R144). -/
def isSuccessfulConfig : Instr → Bool
  | .config w _ _ => widthLegal w
  | _ => false

/-- The byte at an index after the host's writes, first write first: the last one to the index, or the byte before them. -/
def byteAfterWrites (s : State) (writes : List (BitVec 32 × Byte)) (a : Nat) : Byte :=
  writes.foldl (fun v w => if w.1.toNat = a then w.2 else v) (hbufRead s a)

/-- While `CONFIGURED = 1`, `CRC` is the bit-by-bit reference's register `reg` in the engine's alignment: reflected within the
width when `refIn = 1`, at the top of the word when `refIn = 0` (R160, R161). -/
def TracksReference (reg : Word) (s : State) : Prop :=
  s.configured = true → reg.toNat < 2 ^ s.cfgWidth.toNat ∧
    s.crc = if s.cfgRefIn then reflect reg s.cfgWidth.toNat else reg <<< (64 - s.cfgWidth.toNat)

/-- The reference's register after bytes, under the active parameter set. -/
def referenceBytes (s : State) (reg : Word) (bytes : List Byte) : Word :=
  bytes.foldl (refByte s.cfgWidth.toNat s.cfgPoly s.cfgRefIn) reg

/-- The reference's register after a command: CONFIG and RESET start it over, UPDATE and UPDATER feed it their bytes. -/
def referenceAfter (s : State) (reg : Word) : Instr → Word
  | .config w _ _ => if widthLegal w then s.stgInit &&& mask w.toNat else reg
  | .reset => s.cfgInit
  | .update b => referenceBytes s reg [b]
  | .updater o l =>
    if rangeLegal o l s.lenAtIssue then referenceBytes s reg (consumedBytes s o.toNat l.toNat) else reg
  | .nop => reg
  | .setpoly _ => reg
  | .setinit _ => reg
  | .setxorout _ => reg
  | .getvalue => reg
  | .tblrd _ => reg
  | .reflect _ _ => reg

/-- The reference's register after the core's turn: after the outstanding command, where there is one and it decodes. -/
def referenceAfterTurn (s : State) (reg : Word) : Word :=
  match s.outstanding.bind decode with
  | some i => referenceAfter s reg i
  | none => reg

/-- The reference's register after one step: moved by the core's turn, by nothing the host does. -/
def referenceAfterStep (s : State) (reg : Word) : Word :=
  match s.schedule with
  | [] => referenceAfterTurn s reg
  | .core :: _ => referenceAfterTurn s reg
  | .present _ :: _ => reg
  | .writeByte _ _ :: _ => reg
  | .setLength _ :: _ => reg
  | .driveReset _ :: _ => reg

end Sys2Proof.Machine
end

