-- ==== Sys2Proof/Certificates/Slice0/Obligations.lean ====
section
/-! DEFINITION. The statements for the provers, one `def Obligations.<Name> : Prop` each, in the order of OBLIGATIONS.json.
Each docstring names the rules of spec/ it formalises, and the log entry where a clause is the model's choice. -/

open Sys2Proof Sys2Proof.Machine

/-! ### Encoding (30_encoding.md) -/

/-- R71 to R75: no bit of an encoding is dropped. -/
def Obligations.DecodeOfEncodeIsTheInstruction : Prop :=
  ∀ i : Instr, decode (encode i) = some i

/-- R71 to R77: each word has one meaning. The word of a decoded command is the encoded one, and so is `DATA` in the formats
that use it; in the others the encoder emits 0 (R78). -/
def Obligations.EncodeOfDecodeIsTheBeat : Prop :=
  ∀ (b : Beat) (i : Instr), decode b = some i →
    (encode i).word = b.word ∧
    (i.format.usesData = true → (encode i).data = b.data) ∧
    (i.format.usesData = false → (encode i).data = 0)

/-- R74, R75: a beat decodes exactly when its word selects a row of the opcode map, and at most one row matches a word. -/
def Obligations.DecodeSelectsTheOneMatchingRow : Prop :=
  ∀ b : Beat,
    ((decode b).isSome = true ↔ ∃ row ∈ opcodeTable, b.word &&& row.mask = row.pattern) ∧
    (∀ r ∈ opcodeTable, ∀ r' ∈ opcodeTable,
      b.word &&& r.mask = r.pattern → b.word &&& r'.mask = r'.pattern → r = r')

/-- R72, R76: in a decoded word `OP` is below 0xB and every must-be-zero field of the command's format is 0. -/
def Obligations.DecodedWordsHaveNoReservedBits : Prop :=
  ∀ (b : Beat) (i : Instr), decode b = some i →
    (b.word.extractLsb' 0 4).toNat < 0xB ∧
    (i.format = .N ∨ i.format = .D → b.word.extractLsb' 4 28 = 0) ∧
    (i.format = .B → b.word.extractLsb' 16 16 = 0 ∧ b.word.extractLsb' 4 4 = 0) ∧
    (i.format = .C → b.word.extractLsb' 25 7 = 0 ∧ b.word.extractLsb' 4 12 = 0) ∧
    (i.format = .K → b.word.extractLsb' 23 9 = 0 ∧ b.word.extractLsb' 4 12 = 0)

/-- R77: `DATA` makes no difference to a command of format N, B or C, neither to its decoding nor to what the core does. -/
def Obligations.DataIsIgnoredByFormatsNBC : Prop :=
  ∀ (s : State) (c : CmdWord) (d d' : Word) (i : Instr),
    decode ⟨c, d⟩ = some i → i.format = .N ∨ i.format = .B ∨ i.format = .C →
    decode ⟨c, d'⟩ = some i ∧
    coreTurn exec { s with outstanding := some ⟨c, d⟩ } = coreTurn exec { s with outstanding := some ⟨c, d'⟩ }

/-- R74's example encodings, and reserved or must-be-zero words of 95_test_vectors.md section 3. -/
def Obligations.DecodeOfTheWordsWrittenOut : Prop :=
  decode ⟨0x01A00004, 0⟩ = some (.config 32 true true) ∧
  decode ⟨0x01C00004, 0⟩ = some (.config 64 true true) ∧
  decode ⟨0x00003106, 0⟩ = some (.update 0x31) ∧
  decode ⟨0x00008009, 0⟩ = some (.tblrd 0x80) ∧
  decode ⟨0x0020000A, 0x04C11DB7⟩ = some (.reflect 32 0x04C11DB7) ∧
  decode ⟨0x00000007, 0x0000000600000003⟩ = some (.updater 3 6) ∧
  decode ⟨0x00000010, 0⟩ = none ∧ decode ⟨0x02000004, 0⟩ = none ∧ decode ⟨0x0000000B, 0⟩ = none

/-- R78: what each well-formed line assembles to decodes to the command the line names, with the operands as written. -/
def Obligations.AssembledLinesDecodeToTheirCommands : Prop :=
  (assemble (.core .nop) = some [lineBeat .nop] ∧ decode (lineBeat .nop) = some .nop) ∧
  (assemble (.core .reset) = some [lineBeat .reset] ∧ decode (lineBeat .reset) = some .reset) ∧
  (assemble (.core .getvalue) = some [lineBeat .getvalue] ∧ decode (lineBeat .getvalue) = some .getvalue) ∧
  (∀ v : Word,
    (assemble (.core (.setpoly v.toNat)) = some [lineBeat (.setpoly v.toNat)] ∧
      decode (lineBeat (.setpoly v.toNat)) = some (.setpoly v)) ∧
    (assemble (.core (.setinit v.toNat)) = some [lineBeat (.setinit v.toNat)] ∧
      decode (lineBeat (.setinit v.toNat)) = some (.setinit v)) ∧
    (assemble (.core (.setxorout v.toNat)) = some [lineBeat (.setxorout v.toNat)] ∧
      decode (lineBeat (.setxorout v.toNat)) = some (.setxorout v))) ∧
  (∀ (w : BitVec 7) (ri ro : Bool),
    assemble (.core (.config w.toNat ri.toNat ro.toNat)) = some [lineBeat (.config w.toNat ri.toNat ro.toNat)] ∧
    decode (lineBeat (.config w.toNat ri.toNat ro.toNat)) = some (.config w ri ro)) ∧
  (∀ b : Byte,
    (assemble (.core (.update b.toNat)) = some [lineBeat (.update b.toNat)] ∧
      decode (lineBeat (.update b.toNat)) = some (.update b)) ∧
    (assemble (.core (.tblrd b.toNat)) = some [lineBeat (.tblrd b.toNat)] ∧
      decode (lineBeat (.tblrd b.toNat)) = some (.tblrd b))) ∧
  (∀ o l : BitVec 32,
    assemble (.core (.updater o.toNat l.toNat)) = some [lineBeat (.updater o.toNat l.toNat)] ∧
    decode (lineBeat (.updater o.toNat l.toNat)) = some (.updater o l)) ∧
  (∀ (w : BitVec 7) (v : Word),
    assemble (.core (.reflect w.toNat v.toNat)) = some [lineBeat (.reflect w.toNat v.toNat)] ∧
    decode (lineBeat (.reflect w.toNat v.toNat)) = some (.reflect w v))

/-- R78: the assembler rejects an operand that does not fit its field, and only that. -/
def Obligations.AssemblerRejectsWhatDoesNotFit : Prop :=
  (∀ w ri ro : Nat, assemble (.core (.config w ri ro)) = none ↔ 128 ≤ w ∨ 2 ≤ ri ∨ 2 ≤ ro) ∧
  (∀ b : Nat, (assemble (.core (.update b)) = none ↔ 256 ≤ b) ∧ (assemble (.core (.tblrd b)) = none ↔ 256 ≤ b)) ∧
  (∀ v : Nat, (assemble (.core (.setpoly v)) = none ↔ 2 ^ 64 ≤ v) ∧ (assemble (.core (.setinit v)) = none ↔ 2 ^ 64 ≤ v) ∧
    (assemble (.core (.setxorout v)) = none ↔ 2 ^ 64 ≤ v)) ∧
  (∀ o l : Nat, assemble (.core (.updater o l)) = none ↔ 2 ^ 32 ≤ o ∨ 2 ^ 32 ≤ l) ∧
  (∀ w v : Nat, assemble (.core (.reflect w v)) = none ↔ 128 ≤ w ∨ 2 ^ 64 ≤ v)

/-- R79: the expansions of the pseudo-instructions, as beats. -/
def Obligations.PseudoInstructionsAssembleToTheirExpansions : Prop :=
  assemble .presetCrc32 = some [⟨0x1, 0x04C11DB7⟩, ⟨0x2, 0xFFFFFFFF⟩, ⟨0x3, 0xFFFFFFFF⟩, ⟨0x01A00004, 0⟩] ∧
  assemble .presetCrc64xz = some [⟨0x1, 0x42F0E1EBA9EA3693⟩, ⟨0x2, 0xFFFFFFFFFFFFFFFF⟩, ⟨0x3, 0xFFFFFFFFFFFFFFFF⟩,
    ⟨0x01C00004, 0⟩] ∧
  (∀ (w : BitVec 7) (p i x : Word) (ri ro : Bool),
    assemble (.crcparams w.toNat p.toNat i.toNat ri.toNat ro.toNat x.toNat) =
      some [⟨0x1, p⟩, ⟨0x2, i⟩, ⟨0x3, x⟩, lineBeat (.config w.toNat ri.toNat ro.toNat)]) ∧
  (∀ bytes : List Byte, bytes ≠ [] →
    assemble (.updates (bytes.map BitVec.toNat)) = some (bytes.map (fun b => lineBeat (.update b.toNat)))) ∧
  (∀ x : Word, assemble (.bitrev64 x.toNat) = some [⟨0x0040000A, x⟩])

/-! ### The ports and one step (30_encoding.md R81, 20_memory.md, 70_reset_and_hazards.md) -/

/-- A step runs the decoded instruction: with a decodable command outstanding and the core's turn next, the step is `exec` of
that command, the core's turn taken off the schedule (log entries 1 and 2). -/
def Obligations.StepRunsTheDecodedInstruction : Prop :=
  ∀ (s : State) (b : Beat) (i : Instr) (rest : List Move), s.outstanding = some b → decode b = some i →
    (s.schedule = .core :: rest → step s = exec i { s with schedule := rest }) ∧
    (s.schedule = [] → step s = exec i s)

/-- R76, R202: a word that decode rejects gets status 4 and data 0 and changes no other state. -/
def Obligations.IllegalCommandIsAnsweredWithStatusFour : Prop :=
  ∀ (s : State) (b : Beat) (rest : List Move), s.outstanding = some b → decode b = none →
    (s.schedule = .core :: rest → step s = .next { s with
      schedule := rest, rspStatus := 4, rspData := 0, rspValid := true, outstanding := none }) ∧
    (s.schedule = [] → step s = .next { s with rspStatus := 4, rspData := 0, rspValid := true, outstanding := none })

/-- R81: a beat is issued exactly when it is presented with `cmd_ready = 1`; issuing samples `HBUF_LEN` (R165) and takes the
earlier response away. Presented with `cmd_ready = 0` it is not issued (log entry 3). -/
def Obligations.BeatIsIssuedExactlyWhenReady : Prop :=
  ∀ (s : State) (b : Beat) (rest : List Move), s.schedule = .present b :: rest →
    (cmdReady s = true → step s = .next { s with
      schedule := rest, outstanding := some b, rspValid := false, lenAtIssue := s.hbufLen, touched := [],
      lenChanged := false }) ∧
    (cmdReady s = false → step s = .next { s with schedule := rest })

/-- R80, R81: every command, legal or not, that a ready core is given ends with one response, after which the core is ready
again; the host buffer reads as before. -/
def Obligations.EveryIssuedCommandGetsOneResponse : Prop :=
  ∀ (s : State) (b : Beat) (rest : List Move), cmdReady s = true → s.schedule = .present b :: .core :: rest →
    ∃ t : State, Host.Core.run Sys2Proof.core 2 s = .next t ∧
      t.rspValid = true ∧ cmdReady t = true ∧ t.schedule = rest ∧ t.rspStatus.toNat ≤ 4 ∧
      (t.rspStatus ≠ 0 → t.rspData = 0) ∧ t.hbufLen = s.hbufLen ∧ ∀ a : Nat, hbufRead t a = hbufRead s a

/-- R81: a response that is present is held until the next command is issued. The third case, the response gone and both
response registers 0 as soon as `rst_n` is driven to 0, is the model's choice (log entry 11, DESIGN CHOICE): R230 gives those
values for the return of `rst_n` to 1 only. -/
def Obligations.ResponseIsHeldUntilTheNextIssue : Prop :=
  ∀ s t : State, PortInv s → s.rspValid = true → step s = .next t →
    (t.rspValid = true ∧ t.rspStatus = s.rspStatus ∧ t.rspData = s.rspData) ∨
    (∃ b rest, s.schedule = .present b :: rest ∧ t.outstanding = some b ∧ t.rspValid = false) ∨
    (∃ level rest, s.schedule = .driveReset level :: rest ∧ t.rspValid = false ∧ t.rspStatus = 0 ∧ t.rspData = 0)

/-- R51: a host write changes the one byte of the host buffer, and a length up to `HBUF_MAX` is taken (R52). The model's own
choices here: a write at or above `HBUF_LEN` is kept like any other (log entry 8, DESIGN CHOICE; R51 speaks of bytes of `HBUF`
only); while a command is outstanding the index is remembered (R62; the form is log entry 9) and so is a change of the length,
where setting the same length is none (log entry 10, DEDUCED); a length above `HBUF_MAX` is the fault (log entry 7). -/
def Obligations.HostWritesReachOnlyTheirTarget : Prop :=
  ∀ (s : State) (rest : List Move),
    (∀ (i : BitVec 32) (v : Byte), s.schedule = .writeByte i v :: rest →
      ∃ t : State, step s = .next t ∧ hbufRead t i.toNat = v ∧ (∀ a : Nat, a ≠ i.toNat → hbufRead t a = hbufRead s a) ∧
        t = { s with schedule := rest, hbuf := t.hbuf, touched := t.touched } ∧
        (s.outstanding = none → t.touched = s.touched) ∧
        (s.outstanding.isSome = true → ∀ a : Nat, a ∈ t.touched ↔ a = i.toNat ∨ a ∈ s.touched)) ∧
    (∀ n : BitVec 33, s.schedule = .setLength n :: rest →
      (n.toNat ≤ Config.hbufMax → ∃ t : State, step s = .next t ∧ t.hbufLen = n ∧
        t = { s with schedule := rest, hbufLen := n, lenChanged := t.lenChanged } ∧
        (s.outstanding = none → t.lenChanged = s.lenChanged) ∧
        (s.outstanding.isSome = true → (t.lenChanged = true ↔ s.lenChanged = true ∨ n ≠ s.hbufLen))) ∧
      (Config.hbufMax < n.toNat → step s = .fault .hostLengthAboveMax))

/-- R61 item 2: host writes that complete before the host issues an UPDATER are seen by that UPDATER. After any list of writes,
to any indexes, an UPDATER within the host buffer consumes at each index of its range the byte last written there, or the
byte that was there before. (That the host may also write at or above `HBUF_LEN` is log entry 8; no such byte is consumed.) -/
def Obligations.HostWriteBeforeIssueIsSeenByTheUpdater : Prop :=
  ∀ (s : State) (writes : List (BitVec 32 × Byte)) (b : Beat) (o l : BitVec 32) (rest : List Move),
    cmdReady s = true → s.configured = true → decode b = some (.updater o l) → o.toNat + l.toNat ≤ s.hbufLen.toNat →
    s.schedule = writes.map (fun w => .writeByte w.1 w.2) ++ .present b :: .core :: rest →
    ∃ t : State, Host.Core.run Sys2Proof.core (writes.length + 2) s = .next t ∧ t.rspStatus = 0 ∧ t.schedule = rest ∧
      t.crc = ((List.range l.toNat).map fun j => byteAfterWrites s writes (o.toNat + j)).foldl
        (stepByte s.table s.cfgRefIn) s.crc

/-- R230: while `rst_n = 0` no command is accepted; when it returns to 1 the staging registers, `CONFIGURED` and the response
registers are 0, `rsp_valid = 0` and `cmd_ready = 1`, and the host's buffer is as it was. Nothing is said of the elements R230
leaves unspecified. The first clause says more than R230: that a presented beat which is not accepted has no effect at all is the
model's (log entry 3, DEDUCED). -/
def Obligations.HardwareResetLeavesTheResetValues : Prop :=
  (∀ (s : State) (b : Beat) (rest : List Move), s.rstN = false → s.schedule = .present b :: rest →
    step s = .next { s with schedule := rest }) ∧
  (∀ (s : State) (rest : List Move), s.schedule = .driveReset false :: .driveReset true :: rest →
    ∃ t : State, Host.Core.run Sys2Proof.core 2 s = .next t ∧ HasResetValues s t ∧ cmdReady t = true ∧ t.schedule = rest) ∧
  (∀ (s : State) (rest : List Move), s.rstN = false → s.schedule = .driveReset true :: rest →
    ∃ t : State, step s = .next t ∧ HasResetValues s t ∧ cmdReady t = true ∧ t.schedule = rest)

/-- R231: a hardware reset while a command is in flight abandons it: it gives no response, then or at the core's next turn,
and has had no effect. That the reset values stand while `rst_n` is still 0, as this says, is the model's choice (log entry 11,
DESIGN CHOICE): R230 gives them for the return of `rst_n` to 1. -/
def Obligations.HardwareResetAbandonsTheCommandInFlight : Prop :=
  ∀ (s : State) (b : Beat) (rest : List Move), s.outstanding = some b → s.schedule = .driveReset false :: .core :: rest →
    ∃ t : State, Host.Core.run Sys2Proof.core 2 s = .next t ∧ HasResetValues s t ∧ cmdReady t = false ∧ t.schedule = rest

/-- R56: no command writes memory, every byte of the host buffer reads as before, and the result leaves on the response
port. -/
def Obligations.NoCommandWritesMemory : Prop :=
  ∀ (i : Instr) (s t : State), exec i s = .next t →
    (∀ a : Nat, hbufRead t a = hbufRead s a) ∧ t.hbufLen = s.hbufLen ∧ t.rspValid = true

/-- No command stops the machine (R200, R10 "A command is a total function"): every step answers a next state, but for a
host length above `HBUF_MAX` (log entry 7). -/
def Obligations.OnlyAnExcludedLengthStopsTheMachine : Prop :=
  ∀ s : State, (∃ t, step s = .next t) ∨
    (step s = .fault .hostLengthAboveMax ∧ ∃ n rest, s.schedule = .setLength n :: rest ∧ Config.hbufMax < n.toNat)

/-! ### The commands, one by one. Each equation gives the whole next state, so it is the command's result, its frame and its
completion. -/

/-- R140. -/
def Obligations.NopAnswersAndChangesNothing : Prop :=
  (∀ b : Beat, b.word.extractLsb' 0 4 = 0x0#4 → decode b = if b.word = 0x00000000 then some .nop else none) ∧
  (∀ s : State, exec .nop s = .next { s with rspStatus := 0, rspData := 0, rspValid := true, outstanding := none })

/-- R141, R142, R143: all 64 bits are stored in the one staging register, whether or not the core is configured; nothing else
changes but the response. -/
def Obligations.StagingWritesLoadTheirRegister : Prop :=
  (∀ b : Beat, b.word.extractLsb' 0 4 = 0x1#4 → decode b = if b.word = 0x00000001 then some (.setpoly b.data) else none) ∧
  (∀ b : Beat, b.word.extractLsb' 0 4 = 0x2#4 → decode b = if b.word = 0x00000002 then some (.setinit b.data) else none) ∧
  (∀ b : Beat, b.word.extractLsb' 0 4 = 0x3#4 → decode b = if b.word = 0x00000003 then some (.setxorout b.data) else none) ∧
  (∀ (v : Word) (s : State),
    exec (.setpoly v) s =
      .next { s with stgPoly := v, rspStatus := 0, rspData := 0, rspValid := true, outstanding := none } ∧
    exec (.setinit v) s =
      .next { s with stgInit := v, rspStatus := 0, rspData := 0, rspValid := true, outstanding := none } ∧
    exec (.setxorout v) s =
      .next { s with stgXorOut := v, rspStatus := 0, rspData := 0, rspValid := true, outstanding := none })

/-- R144: with a width of 1 to 64 CONFIG latches the six parameters masked to the width, builds the table and resets the
register, all together; with any other width it changes nothing but the response. The staging registers are unchanged. -/
def Obligations.ConfigLatchesBuildsAndResets : Prop :=
  (∀ b : Beat, b.word.extractLsb' 0 4 = 0x4#4 → decode b =
    if b.word &&& 0xFE00FFFF = 0x00000004 then
      some (.config (b.word.extractLsb' 16 7) (b.word.getLsbD 23) (b.word.getLsbD 24)) else none) ∧
  (∀ (w : BitVec 7) (ri ro : Bool) (s : State), 1 ≤ w.toNat → w.toNat ≤ 64 →
    exec (.config w ri ro) s = .next { s with
      cfgWidth := w
      cfgPoly := s.stgPoly &&& BitVec.ofNat 64 (2 ^ w.toNat - 1)
      cfgInit := s.stgInit &&& BitVec.ofNat 64 (2 ^ w.toNat - 1)
      cfgXorOut := s.stgXorOut &&& BitVec.ofNat 64 (2 ^ w.toNat - 1)
      cfgRefIn := ri
      cfgRefOut := ro
      table := buildTable w.toNat (s.stgPoly &&& BitVec.ofNat 64 (2 ^ w.toNat - 1)) ri
      crc := initialCrc w.toNat (s.stgInit &&& BitVec.ofNat 64 (2 ^ w.toNat - 1)) ri
      configured := true
      rspStatus := 0, rspData := 0, rspValid := true, outstanding := none }) ∧
  (∀ (w : BitVec 7) (ri ro : Bool) (s : State), w.toNat = 0 ∨ 65 ≤ w.toNat →
    exec (.config w ri ro) s =
      .next { s with rspStatus := 1, rspData := 0, rspValid := true, outstanding := none })

/-- R163. -/
def Obligations.ResetCommandRestoresTheSessionStart : Prop :=
  (∀ b : Beat, b.word.extractLsb' 0 4 = 0x5#4 → decode b = if b.word = 0x00000005 then some .reset else none) ∧
  (∀ s : State, s.configured = true →
    exec .reset s = .next { s with
      crc := initialCrc s.cfgWidth.toNat s.cfgInit s.cfgRefIn
      rspStatus := 0, rspData := 0, rspValid := true, outstanding := none }) ∧
  (∀ s : State, s.configured = false →
    exec .reset s = .next { s with rspStatus := 3, rspData := 0, rspValid := true, outstanding := none })

/-- R164. -/
def Obligations.UpdateConsumesOneByte : Prop :=
  (∀ b : Beat, b.word.extractLsb' 0 4 = 0x6#4 → decode b =
    if b.word &&& 0xFFFF00FF = 0x00000006 then some (.update (b.word.extractLsb' 8 8)) else none) ∧
  (∀ (v : Byte) (s : State), s.configured = true →
    exec (.update v) s = .next { s with
      crc := stepByte s.table s.cfgRefIn s.crc v
      rspStatus := 0, rspData := 0, rspValid := true, outstanding := none }) ∧
  (∀ (v : Byte) (s : State), s.configured = false →
    exec (.update v) s = .next { s with rspStatus := 3, rspData := 0, rspValid := true, outstanding := none })

/-- R165, R62: in range, UPDATER consumes `length` bytes in increasing index order and writes `CRC` once; each byte that is not
raced is the host buffer's, and of a raced one nothing is said. The range check is the exact sum against the length sampled at
issue. The clause `draws := draws + length` is the model's own counter, no rule of the spec (log entry 9, DESIGN CHOICE in
form). -/
def Obligations.UpdaterConsumesItsRange : Prop :=
  (∀ b : Beat, b.word.extractLsb' 0 4 = 0x7#4 → decode b =
    if b.word = 0x00000007 then some (.updater (b.data.extractLsb' 0 32) (b.data.extractLsb' 32 32)) else none) ∧
  (∀ (o l : BitVec 32) (s : State), s.configured = true → o.toNat + l.toNat ≤ s.lenAtIssue.toNat →
    ∃ bytes : List Byte, bytes.length = l.toNat ∧
      (∀ j : Nat, j < l.toNat → s.lenChanged = false → o.toNat + j ∉ s.touched →
        bytes[j]? = some (hbufRead s (o.toNat + j))) ∧
      exec (.updater o l) s = .next { s with
        crc := bytes.foldl (stepByte s.table s.cfgRefIn) s.crc
        draws := s.draws + l.toNat
        rspStatus := 0, rspData := 0, rspValid := true, outstanding := none }) ∧
  (∀ (o l : BitVec 32) (s : State), s.configured = true → s.lenAtIssue.toNat < o.toNat + l.toNat →
    exec (.updater o l) s = .next { s with rspStatus := 2, rspData := 0, rspValid := true, outstanding := none }) ∧
  (∀ (o l : BitVec 32) (s : State), s.configured = false →
    exec (.updater o l) s = .next { s with rspStatus := 3, rspData := 0, rspValid := true, outstanding := none })

/-- R181. -/
def Obligations.GetvalueReturnsTheChecksum : Prop :=
  (∀ b : Beat, b.word.extractLsb' 0 4 = 0x8#4 → decode b = if b.word = 0x00000008 then some .getvalue else none) ∧
  (∀ s : State, s.configured = true →
    exec .getvalue s = .next { s with
      rspStatus := 0
      rspData := finalize s.cfgWidth.toNat s.cfgRefIn s.cfgRefOut s.cfgXorOut s.crc
      rspValid := true, outstanding := none }) ∧
  (∀ s : State, s.configured = false →
    exec .getvalue s = .next { s with rspStatus := 3, rspData := 0, rspValid := true, outstanding := none })

/-- R126. -/
def Obligations.TblrdReturnsTheRawEntry : Prop :=
  (∀ b : Beat, b.word.extractLsb' 0 4 = 0x9#4 → decode b =
    if b.word &&& 0xFFFF00FF = 0x00000009 then some (.tblrd (b.word.extractLsb' 8 8)) else none) ∧
  (∀ (i : BitVec 8) (s : State), s.configured = true →
    exec (.tblrd i) s = .next { s with
      rspStatus := 0, rspData := s.table[i.toNat]'i.isLt, rspValid := true, outstanding := none }) ∧
  (∀ (i : BitVec 8) (s : State), s.configured = false →
    exec (.tblrd i) s = .next { s with rspStatus := 3, rspData := 0, rspValid := true, outstanding := none })

/-- R105: REFLECT needs no configuration. -/
def Obligations.ReflectReturnsTheReflectedWord : Prop :=
  (∀ b : Beat, b.word.extractLsb' 0 4 = 0xA#4 → decode b =
    if b.word &&& 0xFF80FFFF = 0x0000000A then some (.reflect (b.word.extractLsb' 16 7) b.data) else none) ∧
  (∀ (w : BitVec 7) (v : Word) (s : State), 1 ≤ w.toNat → w.toNat ≤ 64 →
    exec (.reflect w v) s = .next { s with
      rspStatus := 0, rspData := reflect v w.toNat, rspValid := true, outstanding := none }) ∧
  (∀ (w : BitVec 7) (v : Word) (s : State), w.toNat = 0 ∨ 65 ≤ w.toNat →
    exec (.reflect w v) s = .next { s with rspStatus := 1, rspData := 0, rspValid := true, outstanding := none })

/-! ### Errors and responses, over every command (60_exceptions.md, 30_encoding.md R80) -/

/-- R207: when more than one condition applies, the status is that of the first in the order of R207. -/
def Obligations.StatusFollowsThePriorityOrder : Prop :=
  ∀ (s t : State) (b : Beat), s.outstanding = some b → coreTurn exec s = .next t → t.rspStatus = dueStatus s (decode b)

/-- R206: a command that raises any error changes no state but the response. -/
def Obligations.ErrorsChangeNothingButTheResponse : Prop :=
  ∀ (s t : State) (b : Beat), s.outstanding = some b → coreTurn exec s = .next t → t.rspStatus ≠ 0 →
    t = { s with rspStatus := t.rspStatus, rspData := 0, rspValid := true, outstanding := none }

/-- R80: every command ends with one response, its data as R80's table says, 0 with any other status. -/
def Obligations.ResponseDataIsTheResultOrZero : Prop :=
  ∀ (s t : State) (b : Beat), s.outstanding = some b → coreTurn exec s = .next t →
    t.rspValid = true ∧ t.outstanding = none ∧
    (t.rspStatus = 0 → t.rspData = dueData s (decode b)) ∧ (t.rspStatus ≠ 0 → t.rspData = 0)

/-- R29: only a successful CONFIG sets `CONFIGURED`, and only hardware reset clears it. -/
def Obligations.OnlyConfigSetsConfiguredOnlyHardwareResetClearsIt : Prop :=
  ∀ s t : State, step s = .next t →
    (s.configured = true → t.configured = true ∨ ∃ level rest, s.schedule = .driveReset level :: rest) ∧
    (s.configured = false → t.configured = true →
      ∃ b w ri ro, s.outstanding = some b ∧ decode b = some (.config w ri ro) ∧ 1 ≤ w.toNat ∧ w.toNat ≤ 64)

/-! ### Bit reflect unit and table builder -/

/-- R101, R102, bit by bit. -/
def Obligations.ReflectionMovesEachBit : Prop :=
  (∀ (x : Word) (i : Nat), i < 64 → (bitRev64 x).getLsbD i = x.getLsbD (63 - i)) ∧
  (∀ (x : Word) (k i : Nat), 1 ≤ k → k ≤ 64 → i < k → (reflect x k).getLsbD i = x.getLsbD (k - 1 - i)) ∧
  (∀ (x : Word) (k i : Nat), 1 ≤ k → k ≤ 64 → k ≤ i → (reflect x k).getLsbD i = false) ∧
  (∀ (x : Word) (k : Nat), 1 ≤ k → k ≤ 64 → reflect x k = bitRev64 (x &&& mask k) >>> (64 - k))

/-- R103, laws 1 to 7. -/
def Obligations.ReflectionLaws : Prop :=
  ∀ (x y : Word) (k : Nat), 1 ≤ k → k ≤ 64 →
    reflect x 64 = bitRev64 x ∧
    bitRev64 (bitRev64 x) = x ∧
    reflect (reflect x k) k = x &&& mask k ∧
    (reflect x k).toNat < 2 ^ k ∧
    (x.toNat < 2 ^ k → bitRev64 x >>> (64 - k) = reflect x k) ∧
    (x.toNat < 2 ^ k → bitRev64 (x <<< (64 - k)) = reflect x k) ∧
    reflect (x ^^^ y) k = reflect x k ^^^ reflect y k

/-- R124, items 1 to 4 (item 5 is that `buildTable` is a function of `(w, p, ri)`). -/
def Obligations.TableLaws : Prop :=
  ∀ (w : Nat) (p : Word) (ri : Bool), 1 ≤ w → w ≤ 64 → p.toNat < 2 ^ w →
    tableEntryAt (buildTable w p ri) 0 = 0 ∧
    (∀ i j : BitVec 8, tableEntryAt (buildTable w p ri) (i ^^^ j) =
      tableEntryAt (buildTable w p ri) i ^^^ tableEntryAt (buildTable w p ri) j) ∧
    tableEntryAt (buildTable w p true) 128 = reflect p w ∧
    tableEntryAt (buildTable w p false) 1 = p <<< (64 - w)

/-- R121, R122, R123: every entry stays in its field, the low `w` bits of a reflected table, the top `w` bits of an unreflected
one. -/
def Obligations.TableEntriesStayInTheirField : Prop :=
  ∀ (w : Nat) (p : Word) (i : BitVec 8), 1 ≤ w → w ≤ 64 → p.toNat < 2 ^ w →
    (tableEntryAt (buildTable w p true) i).toNat < 2 ^ w ∧
    tableEntryAt (buildTable w p false) i &&& mask (64 - w) = 0

/-! ### Register engine and finalisation -/

/-- R162 in numbers: which entry each path reads, and that the result keeps the convention of R160. -/
def Obligations.StepByteReadsItsEntryAndKeepsTheConvention : Prop :=
  (∀ (t : Vector Word 256) (c : Word) (b : Byte),
    stepByte t true c b = (c >>> 8) ^^^ tableEntryAt t (BitVec.ofNat 8 (c.toNat % 256) ^^^ b) ∧
    stepByte t false c b = (c <<< 8) ^^^ tableEntryAt t (BitVec.ofNat 8 (c.toNat / 2 ^ 56) ^^^ b)) ∧
  (∀ (w : Nat) (p c : Word) (b : Byte), 1 ≤ w → w ≤ 64 → p.toNat < 2 ^ w →
    (c.toNat < 2 ^ w → (stepByte (buildTable w p true) true c b).toNat < 2 ^ w) ∧
    (c &&& mask (64 - w) = 0 → stepByte (buildTable w p false) false c b &&& mask (64 - w) = 0))

/-- R166: consuming a byte sequence by any mix of UPDATE and UPDATER leaves the `CRC` that one UPDATER over the sequence
leaves. The host is quiet meanwhile (R237). -/
def Obligations.AnyMixOfUpdatesEqualsOneUpdater : Prop :=
  ∀ (s : State) (commands : List Instr) (o l : BitVec 32),
    s.configured = true → QuietHost s → commands.all (isInput s) = true → rangeLegal o l s.lenAtIssue = true →
    commands.flatMap (inputBytes s) = inputBytes s (.updater o l) →
    ∃ t u : State, execAll commands s = .next t ∧ exec (.updater o l) s = .next u ∧ t.crc = u.crc

/-- R59, R50: an UPDATER's effect depends on the host buffer only through the bytes of its own range. -/
def Obligations.UpdaterReadsOnlyItsOwnRange : Prop :=
  ∀ (s : State) (m : Memory) (o l : BitVec 32),
    (∀ j : Nat, j < l.toNat → hbufRead { s with hbuf := m } (o.toNat + j) = hbufRead s (o.toNat + j)) →
    OutcomesAgree (fun a b => a = { b with hbuf := s.hbuf })
      (exec (.updater o l) s) (exec (.updater o l) { s with hbuf := m })

/-- R234: RESET puts `CRC` back to the value the last successful CONFIG gave it, whatever commands came between: any list with no
CONFIG of a width of 1 to 64 in it, so that CONFIGs that fail may come between too. -/
def Obligations.ResetRestoresTheCrcOfTheLastConfig : Prop :=
  ∀ (s : State) (w : BitVec 7) (ri ro : Bool) (commands : List Instr),
    1 ≤ w.toNat → w.toNat ≤ 64 → (commands.all fun i => !isSuccessfulConfig i) = true →
    ∃ a t : State, exec (.config w ri ro) s = .next a ∧
      execAll (.config w ri ro :: commands ++ [.reset]) s = .next t ∧ t.rspStatus = 0 ∧ t.crc = a.crc

/-- R238: staging writes in the middle of a session change nothing of it. With and without them, every other command of the
session, a CONFIG that fails among them, leaves the same parameter set, table, register and checksum. -/
def Obligations.StagingWritesNeverDisturbASession : Prop :=
  ∀ (s : State) (commands : List Instr), (commands.all fun i => !isSuccessfulConfig i) = true →
    ∃ t u : State, execAll commands s = .next t ∧ execAll (commands.filter fun i => !isStagingWrite i) s = .next u ∧
      t.crc = u.crc ∧ t.table = u.table ∧ t.cfgWidth = u.cfgWidth ∧ t.cfgPoly = u.cfgPoly ∧ t.cfgInit = u.cfgInit ∧
      t.cfgXorOut = u.cfgXorOut ∧ t.cfgRefIn = u.cfgRefIn ∧ t.cfgRefOut = u.cfgRefOut ∧ t.configured = u.configured ∧
      checksum t = checksum u

/-- R180's table of the four cases, under the alignment of R160. -/
def Obligations.FinalizeByTheFourCases : Prop :=
  ∀ (w : Nat) (x c : Word), 1 ≤ w → w ≤ 64 → x.toNat < 2 ^ w →
    (c.toNat < 2 ^ w →
      finalize w true true x c = (c ^^^ x) &&& mask w ∧
      finalize w true false x c = (reflect c w ^^^ x) &&& mask w) ∧
    (c &&& mask (64 - w) = 0 →
      finalize w false false x c = ((c >>> (64 - w)) ^^^ x) &&& mask w ∧
      finalize w false true x c = (reflect (c >>> (64 - w)) w ^^^ x) &&& mask w)

/-- R181, the corner case of no bytes: `init ^ xorOut`, reflected when `refOut = 1`, whatever `refIn` is. -/
def Obligations.EmptyInputChecksum : Prop :=
  ∀ (w : Nat) (init x : Word) (ri : Bool), 1 ≤ w → w ≤ 64 → init.toNat < 2 ^ w → x.toNat < 2 ^ w →
    finalize w ri false x (initialCrc w init ri) = init ^^^ x ∧
    finalize w ri true x (initialCrc w init ri) = reflect init w ^^^ x

/-- R182, laws 1 to 4. -/
def Obligations.FinalizationLaws : Prop :=
  ∀ s : State, s.configured = true →
    (∀ t u : State, exec .getvalue s = .next t → exec .getvalue t = .next u → u.rspData = t.rspData) ∧
    (∀ c : Word, (finalize s.cfgWidth.toNat s.cfgRefIn s.cfgRefOut s.cfgXorOut c).toNat < 2 ^ s.cfgWidth.toNat) ∧
    (RegisterInv s →
      unmaskedChecksum s.cfgWidth.toNat s.cfgRefIn s.cfgRefOut s.cfgXorOut s.crc = checksum s) ∧
    (∃ t : State, execAll [.reset, .getvalue] s = .next t ∧ t.rspStatus = 0 ∧ t.rspData =
      finalize s.cfgWidth.toNat s.cfgRefIn s.cfgRefOut s.cfgXorOut (initialCrc s.cfgWidth.toNat s.cfgInit s.cfgRefIn))

/-- R167: GETVALUE after the parameters, CONFIG and UPDATE of a byte sequence is the bit-by-bit CRC of the sequence, for every
parameter set and every sequence. The reference is that of 95_test_vectors.md section 1, which the spec marks as supplied from
general knowledge and not in its source (log entry 19, PRESUMED). -/
def Obligations.ChecksumEqualsTheBitByBitReference : Prop :=
  ∀ (s : State) (w : BitVec 7) (poly init xorOut : Word) (ri ro : Bool) (bytes : List Byte),
    1 ≤ w.toNat → w.toNat ≤ 64 →
    ∃ t : State,
      execAll ([.setpoly poly, .setinit init, .setxorout xorOut, .config w ri ro] ++ bytes.map .update ++ [.getvalue]) s
        = .next t ∧
      t.rspStatus = 0 ∧ t.rspData = refCrc w.toNat poly init ri ro xorOut bytes

/-! ### Invariants and what cannot be observed -/

/-- R37: its items hold after every step from a state in which they hold. -/
def Obligations.RegisterInvariantIsKeptByEveryStep : Prop :=
  ∀ s t : State, RegisterInv s → step s = .next t → RegisterInv t

/-- R37 at the state after hardware reset. -/
def Obligations.RegisterInvariantHoldsAtReset : Prop :=
  RegisterInv State.reset

/-- R52, R80, R81 and R201, kept by every step. Three items are the model's: the canonical form of the host's memory (log entry
5, DESIGN CHOICE), the bound of the sampled length (log entry 13, DEDUCED), and that nothing is outstanding, present or
configured while `rst_n` is 0 (log entry 11, DESIGN CHOICE: R230 and R231 fix the values for the return of `rst_n` to 1). -/
def Obligations.PortInvariantIsKeptByEveryStep : Prop :=
  ∀ s t : State, PortInv s → step s = .next t → PortInv t

/-- The port invariant at the state after hardware reset. The host's empty buffer there is log entry 6, the sampled length 0 log
entry 13. -/
def Obligations.PortInvariantHoldsAtReset : Prop :=
  PortInv State.reset

/-- R29 to R31, R230: no command can observe the unspecified reset values. Two runs of any length from unconfigured states that
differ only in the parameter set, `TABLE` and `CRC` stop or go on alike, and the outside sees the same response and
readiness. (So nothing rests on the values log entry 4 names.) -/
def Obligations.UnspecifiedResetValuesCannotBeObserved : Prop :=
  ∀ (n : Nat) (s t : State), Indistinguishable s t →
    OutcomesAgree (fun a b => Indistinguishable a b ∧ a.rspStatus = b.rspStatus ∧ a.rspData = b.rspData ∧
        a.rspValid = b.rspValid ∧ cmdReady a = cmdReady b)
      (Host.Core.run Sys2Proof.core n s) (Host.Core.run Sys2Proof.core n t)

/-- R39, R230: the values the spec gives the state right after hardware reset. -/
def Obligations.ResetStateHasTheSpecifiedValues : Prop :=
  State.reset.stgPoly = 0 ∧ State.reset.stgInit = 0 ∧ State.reset.stgXorOut = 0 ∧ State.reset.configured = false ∧
  State.reset.rspStatus = 0 ∧ State.reset.rspData = 0 ∧ State.reset.rspValid = false ∧ cmdReady State.reset = true

/-- R160 to R165, R167, as a step: from a state with the items of R37 whose `CRC` is the bit-by-bit reference's register `reg` in
the engine's alignment, every step leaves `CRC` at the reference's register after that step, whichever move the step makes:
CONFIG and RESET start the reference over, UPDATE and UPDATER feed it their bytes, raced ones among them, and nothing else
moves it. The reference is 95_test_vectors.md section 1's (log entry 19, PRESUMED); the moves are the model's (log entries 1
and 2), and so is what stands for a raced byte (log entry 9). -/
def Obligations.EveryStepTracksTheBitByBitReference : Prop :=
  ∀ (s t : State) (reg : Word), RegisterInv s → TracksReference reg s → step s = .next t →
    TracksReference (referenceAfterStep s reg) t
end

