-- ==== Sys2Proof/Laws/State.lean ====
section
/-! SUPPORT. What each update of State leaves in each field: one lemma per field per update, so that no later proof unfolds
a record update. -/

namespace Sys2Proof.Machine

@[simp] theorem respond_stgPoly (status : BitVec 3) (data : Word) (s : State) : (respond status data s).stgPoly = s.stgPoly := rfl
@[simp] theorem respond_stgInit (status : BitVec 3) (data : Word) (s : State) : (respond status data s).stgInit = s.stgInit := rfl
@[simp] theorem respond_stgXorOut (status : BitVec 3) (data : Word) (s : State) : (respond status data s).stgXorOut = s.stgXorOut := rfl
@[simp] theorem respond_cfgWidth (status : BitVec 3) (data : Word) (s : State) : (respond status data s).cfgWidth = s.cfgWidth := rfl
@[simp] theorem respond_cfgPoly (status : BitVec 3) (data : Word) (s : State) : (respond status data s).cfgPoly = s.cfgPoly := rfl
@[simp] theorem respond_cfgInit (status : BitVec 3) (data : Word) (s : State) : (respond status data s).cfgInit = s.cfgInit := rfl
@[simp] theorem respond_cfgXorOut (status : BitVec 3) (data : Word) (s : State) : (respond status data s).cfgXorOut = s.cfgXorOut := rfl
@[simp] theorem respond_cfgRefIn (status : BitVec 3) (data : Word) (s : State) : (respond status data s).cfgRefIn = s.cfgRefIn := rfl
@[simp] theorem respond_cfgRefOut (status : BitVec 3) (data : Word) (s : State) : (respond status data s).cfgRefOut = s.cfgRefOut := rfl
@[simp] theorem respond_configured (status : BitVec 3) (data : Word) (s : State) : (respond status data s).configured = s.configured := rfl
@[simp] theorem respond_table (status : BitVec 3) (data : Word) (s : State) : (respond status data s).table = s.table := rfl
@[simp] theorem respond_crc (status : BitVec 3) (data : Word) (s : State) : (respond status data s).crc = s.crc := rfl
@[simp] theorem respond_rspStatus (status : BitVec 3) (data : Word) (s : State) : (respond status data s).rspStatus = status := rfl
@[simp] theorem respond_rspData (status : BitVec 3) (data : Word) (s : State) : (respond status data s).rspData = data := rfl
@[simp] theorem respond_rspValid (status : BitVec 3) (data : Word) (s : State) : (respond status data s).rspValid = true := rfl
@[simp] theorem respond_rstN (status : BitVec 3) (data : Word) (s : State) : (respond status data s).rstN = s.rstN := rfl
@[simp] theorem respond_hbuf (status : BitVec 3) (data : Word) (s : State) : (respond status data s).hbuf = s.hbuf := rfl
@[simp] theorem respond_hbufLen (status : BitVec 3) (data : Word) (s : State) : (respond status data s).hbufLen = s.hbufLen := rfl
@[simp] theorem respond_outstanding (status : BitVec 3) (data : Word) (s : State) : (respond status data s).outstanding = none := rfl
@[simp] theorem respond_lenAtIssue (status : BitVec 3) (data : Word) (s : State) : (respond status data s).lenAtIssue = s.lenAtIssue := rfl
@[simp] theorem respond_touched (status : BitVec 3) (data : Word) (s : State) : (respond status data s).touched = s.touched := rfl
@[simp] theorem respond_lenChanged (status : BitVec 3) (data : Word) (s : State) : (respond status data s).lenChanged = s.lenChanged := rfl
@[simp] theorem respond_draws (status : BitVec 3) (data : Word) (s : State) : (respond status data s).draws = s.draws := rfl
@[simp] theorem respond_schedule (status : BitVec 3) (data : Word) (s : State) : (respond status data s).schedule = s.schedule := rfl

@[simp] theorem raise_stgPoly (e : CommandError) (s : State) : (raise e s).stgPoly = s.stgPoly := rfl
@[simp] theorem raise_stgInit (e : CommandError) (s : State) : (raise e s).stgInit = s.stgInit := rfl
@[simp] theorem raise_stgXorOut (e : CommandError) (s : State) : (raise e s).stgXorOut = s.stgXorOut := rfl
@[simp] theorem raise_cfgWidth (e : CommandError) (s : State) : (raise e s).cfgWidth = s.cfgWidth := rfl
@[simp] theorem raise_cfgPoly (e : CommandError) (s : State) : (raise e s).cfgPoly = s.cfgPoly := rfl
@[simp] theorem raise_cfgInit (e : CommandError) (s : State) : (raise e s).cfgInit = s.cfgInit := rfl
@[simp] theorem raise_cfgXorOut (e : CommandError) (s : State) : (raise e s).cfgXorOut = s.cfgXorOut := rfl
@[simp] theorem raise_cfgRefIn (e : CommandError) (s : State) : (raise e s).cfgRefIn = s.cfgRefIn := rfl
@[simp] theorem raise_cfgRefOut (e : CommandError) (s : State) : (raise e s).cfgRefOut = s.cfgRefOut := rfl
@[simp] theorem raise_configured (e : CommandError) (s : State) : (raise e s).configured = s.configured := rfl
@[simp] theorem raise_table (e : CommandError) (s : State) : (raise e s).table = s.table := rfl
@[simp] theorem raise_crc (e : CommandError) (s : State) : (raise e s).crc = s.crc := rfl
@[simp] theorem raise_rspStatus (e : CommandError) (s : State) : (raise e s).rspStatus = errorCode e := rfl
@[simp] theorem raise_rspData (e : CommandError) (s : State) : (raise e s).rspData = 0 := rfl
@[simp] theorem raise_rspValid (e : CommandError) (s : State) : (raise e s).rspValid = true := rfl
@[simp] theorem raise_rstN (e : CommandError) (s : State) : (raise e s).rstN = s.rstN := rfl
@[simp] theorem raise_hbuf (e : CommandError) (s : State) : (raise e s).hbuf = s.hbuf := rfl
@[simp] theorem raise_hbufLen (e : CommandError) (s : State) : (raise e s).hbufLen = s.hbufLen := rfl
@[simp] theorem raise_outstanding (e : CommandError) (s : State) : (raise e s).outstanding = none := rfl
@[simp] theorem raise_lenAtIssue (e : CommandError) (s : State) : (raise e s).lenAtIssue = s.lenAtIssue := rfl
@[simp] theorem raise_touched (e : CommandError) (s : State) : (raise e s).touched = s.touched := rfl
@[simp] theorem raise_lenChanged (e : CommandError) (s : State) : (raise e s).lenChanged = s.lenChanged := rfl
@[simp] theorem raise_draws (e : CommandError) (s : State) : (raise e s).draws = s.draws := rfl
@[simp] theorem raise_schedule (e : CommandError) (s : State) : (raise e s).schedule = s.schedule := rfl

@[simp] theorem latch_stgPoly (width : BitVec 7) (refIn refOut : Bool) (s : State) : (latch width refIn refOut s).stgPoly = s.stgPoly := rfl
@[simp] theorem latch_stgInit (width : BitVec 7) (refIn refOut : Bool) (s : State) : (latch width refIn refOut s).stgInit = s.stgInit := rfl
@[simp] theorem latch_stgXorOut (width : BitVec 7) (refIn refOut : Bool) (s : State) : (latch width refIn refOut s).stgXorOut = s.stgXorOut := rfl
@[simp] theorem latch_cfgWidth (width : BitVec 7) (refIn refOut : Bool) (s : State) : (latch width refIn refOut s).cfgWidth = width := rfl
@[simp] theorem latch_cfgPoly (width : BitVec 7) (refIn refOut : Bool) (s : State) : (latch width refIn refOut s).cfgPoly = s.stgPoly &&& mask width.toNat := rfl
@[simp] theorem latch_cfgInit (width : BitVec 7) (refIn refOut : Bool) (s : State) : (latch width refIn refOut s).cfgInit = s.stgInit &&& mask width.toNat := rfl
@[simp] theorem latch_cfgXorOut (width : BitVec 7) (refIn refOut : Bool) (s : State) : (latch width refIn refOut s).cfgXorOut = s.stgXorOut &&& mask width.toNat := rfl
@[simp] theorem latch_cfgRefIn (width : BitVec 7) (refIn refOut : Bool) (s : State) : (latch width refIn refOut s).cfgRefIn = refIn := rfl
@[simp] theorem latch_cfgRefOut (width : BitVec 7) (refIn refOut : Bool) (s : State) : (latch width refIn refOut s).cfgRefOut = refOut := rfl
@[simp] theorem latch_configured (width : BitVec 7) (refIn refOut : Bool) (s : State) : (latch width refIn refOut s).configured = true := rfl
@[simp] theorem latch_table (width : BitVec 7) (refIn refOut : Bool) (s : State) : (latch width refIn refOut s).table = buildTable width.toNat (s.stgPoly &&& mask width.toNat) refIn := rfl
@[simp] theorem latch_crc (width : BitVec 7) (refIn refOut : Bool) (s : State) : (latch width refIn refOut s).crc = initialCrc width.toNat (s.stgInit &&& mask width.toNat) refIn := rfl
@[simp] theorem latch_rspStatus (width : BitVec 7) (refIn refOut : Bool) (s : State) : (latch width refIn refOut s).rspStatus = s.rspStatus := rfl
@[simp] theorem latch_rspData (width : BitVec 7) (refIn refOut : Bool) (s : State) : (latch width refIn refOut s).rspData = s.rspData := rfl
@[simp] theorem latch_rspValid (width : BitVec 7) (refIn refOut : Bool) (s : State) : (latch width refIn refOut s).rspValid = s.rspValid := rfl
@[simp] theorem latch_rstN (width : BitVec 7) (refIn refOut : Bool) (s : State) : (latch width refIn refOut s).rstN = s.rstN := rfl
@[simp] theorem latch_hbuf (width : BitVec 7) (refIn refOut : Bool) (s : State) : (latch width refIn refOut s).hbuf = s.hbuf := rfl
@[simp] theorem latch_hbufLen (width : BitVec 7) (refIn refOut : Bool) (s : State) : (latch width refIn refOut s).hbufLen = s.hbufLen := rfl
@[simp] theorem latch_outstanding (width : BitVec 7) (refIn refOut : Bool) (s : State) : (latch width refIn refOut s).outstanding = s.outstanding := rfl
@[simp] theorem latch_lenAtIssue (width : BitVec 7) (refIn refOut : Bool) (s : State) : (latch width refIn refOut s).lenAtIssue = s.lenAtIssue := rfl
@[simp] theorem latch_touched (width : BitVec 7) (refIn refOut : Bool) (s : State) : (latch width refIn refOut s).touched = s.touched := rfl
@[simp] theorem latch_lenChanged (width : BitVec 7) (refIn refOut : Bool) (s : State) : (latch width refIn refOut s).lenChanged = s.lenChanged := rfl
@[simp] theorem latch_draws (width : BitVec 7) (refIn refOut : Bool) (s : State) : (latch width refIn refOut s).draws = s.draws := rfl
@[simp] theorem latch_schedule (width : BitVec 7) (refIn refOut : Bool) (s : State) : (latch width refIn refOut s).schedule = s.schedule := rfl

@[simp] theorem issue_stgPoly (b : Beat) (s : State) : (issue b s).stgPoly = s.stgPoly := rfl
@[simp] theorem issue_stgInit (b : Beat) (s : State) : (issue b s).stgInit = s.stgInit := rfl
@[simp] theorem issue_stgXorOut (b : Beat) (s : State) : (issue b s).stgXorOut = s.stgXorOut := rfl
@[simp] theorem issue_cfgWidth (b : Beat) (s : State) : (issue b s).cfgWidth = s.cfgWidth := rfl
@[simp] theorem issue_cfgPoly (b : Beat) (s : State) : (issue b s).cfgPoly = s.cfgPoly := rfl
@[simp] theorem issue_cfgInit (b : Beat) (s : State) : (issue b s).cfgInit = s.cfgInit := rfl
@[simp] theorem issue_cfgXorOut (b : Beat) (s : State) : (issue b s).cfgXorOut = s.cfgXorOut := rfl
@[simp] theorem issue_cfgRefIn (b : Beat) (s : State) : (issue b s).cfgRefIn = s.cfgRefIn := rfl
@[simp] theorem issue_cfgRefOut (b : Beat) (s : State) : (issue b s).cfgRefOut = s.cfgRefOut := rfl
@[simp] theorem issue_configured (b : Beat) (s : State) : (issue b s).configured = s.configured := rfl
@[simp] theorem issue_table (b : Beat) (s : State) : (issue b s).table = s.table := rfl
@[simp] theorem issue_crc (b : Beat) (s : State) : (issue b s).crc = s.crc := rfl
@[simp] theorem issue_rspStatus (b : Beat) (s : State) : (issue b s).rspStatus = s.rspStatus := rfl
@[simp] theorem issue_rspData (b : Beat) (s : State) : (issue b s).rspData = s.rspData := rfl
@[simp] theorem issue_rspValid (b : Beat) (s : State) : (issue b s).rspValid = false := rfl
@[simp] theorem issue_rstN (b : Beat) (s : State) : (issue b s).rstN = s.rstN := rfl
@[simp] theorem issue_hbuf (b : Beat) (s : State) : (issue b s).hbuf = s.hbuf := rfl
@[simp] theorem issue_hbufLen (b : Beat) (s : State) : (issue b s).hbufLen = s.hbufLen := rfl
@[simp] theorem issue_outstanding (b : Beat) (s : State) : (issue b s).outstanding = some b := rfl
@[simp] theorem issue_lenAtIssue (b : Beat) (s : State) : (issue b s).lenAtIssue = s.hbufLen := rfl
@[simp] theorem issue_touched (b : Beat) (s : State) : (issue b s).touched = [] := rfl
@[simp] theorem issue_lenChanged (b : Beat) (s : State) : (issue b s).lenChanged = false := rfl
@[simp] theorem issue_draws (b : Beat) (s : State) : (issue b s).draws = s.draws := rfl
@[simp] theorem issue_schedule (b : Beat) (s : State) : (issue b s).schedule = s.schedule := rfl

@[simp] theorem hostWriteByte_stgPoly (i : BitVec 32) (v : Byte) (s : State) : (hostWriteByte i v s).stgPoly = s.stgPoly := rfl
@[simp] theorem hostWriteByte_stgInit (i : BitVec 32) (v : Byte) (s : State) : (hostWriteByte i v s).stgInit = s.stgInit := rfl
@[simp] theorem hostWriteByte_stgXorOut (i : BitVec 32) (v : Byte) (s : State) : (hostWriteByte i v s).stgXorOut = s.stgXorOut := rfl
@[simp] theorem hostWriteByte_cfgWidth (i : BitVec 32) (v : Byte) (s : State) : (hostWriteByte i v s).cfgWidth = s.cfgWidth := rfl
@[simp] theorem hostWriteByte_cfgPoly (i : BitVec 32) (v : Byte) (s : State) : (hostWriteByte i v s).cfgPoly = s.cfgPoly := rfl
@[simp] theorem hostWriteByte_cfgInit (i : BitVec 32) (v : Byte) (s : State) : (hostWriteByte i v s).cfgInit = s.cfgInit := rfl
@[simp] theorem hostWriteByte_cfgXorOut (i : BitVec 32) (v : Byte) (s : State) : (hostWriteByte i v s).cfgXorOut = s.cfgXorOut := rfl
@[simp] theorem hostWriteByte_cfgRefIn (i : BitVec 32) (v : Byte) (s : State) : (hostWriteByte i v s).cfgRefIn = s.cfgRefIn := rfl
@[simp] theorem hostWriteByte_cfgRefOut (i : BitVec 32) (v : Byte) (s : State) : (hostWriteByte i v s).cfgRefOut = s.cfgRefOut := rfl
@[simp] theorem hostWriteByte_configured (i : BitVec 32) (v : Byte) (s : State) : (hostWriteByte i v s).configured = s.configured := rfl
@[simp] theorem hostWriteByte_table (i : BitVec 32) (v : Byte) (s : State) : (hostWriteByte i v s).table = s.table := rfl
@[simp] theorem hostWriteByte_crc (i : BitVec 32) (v : Byte) (s : State) : (hostWriteByte i v s).crc = s.crc := rfl
@[simp] theorem hostWriteByte_rspStatus (i : BitVec 32) (v : Byte) (s : State) : (hostWriteByte i v s).rspStatus = s.rspStatus := rfl
@[simp] theorem hostWriteByte_rspData (i : BitVec 32) (v : Byte) (s : State) : (hostWriteByte i v s).rspData = s.rspData := rfl
@[simp] theorem hostWriteByte_rspValid (i : BitVec 32) (v : Byte) (s : State) : (hostWriteByte i v s).rspValid = s.rspValid := rfl
@[simp] theorem hostWriteByte_rstN (i : BitVec 32) (v : Byte) (s : State) : (hostWriteByte i v s).rstN = s.rstN := rfl
@[simp] theorem hostWriteByte_hbuf (i : BitVec 32) (v : Byte) (s : State) : (hostWriteByte i v s).hbuf = Memory.write s.hbuf i.toNat v := rfl
@[simp] theorem hostWriteByte_hbufLen (i : BitVec 32) (v : Byte) (s : State) : (hostWriteByte i v s).hbufLen = s.hbufLen := rfl
@[simp] theorem hostWriteByte_outstanding (i : BitVec 32) (v : Byte) (s : State) : (hostWriteByte i v s).outstanding = s.outstanding := rfl
@[simp] theorem hostWriteByte_lenAtIssue (i : BitVec 32) (v : Byte) (s : State) : (hostWriteByte i v s).lenAtIssue = s.lenAtIssue := rfl
@[simp] theorem hostWriteByte_touched (i : BitVec 32) (v : Byte) (s : State) : (hostWriteByte i v s).touched = if s.outstanding.isSome then s.touched.insert i.toNat else s.touched := rfl
@[simp] theorem hostWriteByte_lenChanged (i : BitVec 32) (v : Byte) (s : State) : (hostWriteByte i v s).lenChanged = s.lenChanged := rfl
@[simp] theorem hostWriteByte_draws (i : BitVec 32) (v : Byte) (s : State) : (hostWriteByte i v s).draws = s.draws := rfl
@[simp] theorem hostWriteByte_schedule (i : BitVec 32) (v : Byte) (s : State) : (hostWriteByte i v s).schedule = s.schedule := rfl

@[simp] theorem hostSetLength_stgPoly (n : BitVec 33) (s : State) : (hostSetLength n s).stgPoly = s.stgPoly := rfl
@[simp] theorem hostSetLength_stgInit (n : BitVec 33) (s : State) : (hostSetLength n s).stgInit = s.stgInit := rfl
@[simp] theorem hostSetLength_stgXorOut (n : BitVec 33) (s : State) : (hostSetLength n s).stgXorOut = s.stgXorOut := rfl
@[simp] theorem hostSetLength_cfgWidth (n : BitVec 33) (s : State) : (hostSetLength n s).cfgWidth = s.cfgWidth := rfl
@[simp] theorem hostSetLength_cfgPoly (n : BitVec 33) (s : State) : (hostSetLength n s).cfgPoly = s.cfgPoly := rfl
@[simp] theorem hostSetLength_cfgInit (n : BitVec 33) (s : State) : (hostSetLength n s).cfgInit = s.cfgInit := rfl
@[simp] theorem hostSetLength_cfgXorOut (n : BitVec 33) (s : State) : (hostSetLength n s).cfgXorOut = s.cfgXorOut := rfl
@[simp] theorem hostSetLength_cfgRefIn (n : BitVec 33) (s : State) : (hostSetLength n s).cfgRefIn = s.cfgRefIn := rfl
@[simp] theorem hostSetLength_cfgRefOut (n : BitVec 33) (s : State) : (hostSetLength n s).cfgRefOut = s.cfgRefOut := rfl
@[simp] theorem hostSetLength_configured (n : BitVec 33) (s : State) : (hostSetLength n s).configured = s.configured := rfl
@[simp] theorem hostSetLength_table (n : BitVec 33) (s : State) : (hostSetLength n s).table = s.table := rfl
@[simp] theorem hostSetLength_crc (n : BitVec 33) (s : State) : (hostSetLength n s).crc = s.crc := rfl
@[simp] theorem hostSetLength_rspStatus (n : BitVec 33) (s : State) : (hostSetLength n s).rspStatus = s.rspStatus := rfl
@[simp] theorem hostSetLength_rspData (n : BitVec 33) (s : State) : (hostSetLength n s).rspData = s.rspData := rfl
@[simp] theorem hostSetLength_rspValid (n : BitVec 33) (s : State) : (hostSetLength n s).rspValid = s.rspValid := rfl
@[simp] theorem hostSetLength_rstN (n : BitVec 33) (s : State) : (hostSetLength n s).rstN = s.rstN := rfl
@[simp] theorem hostSetLength_hbuf (n : BitVec 33) (s : State) : (hostSetLength n s).hbuf = s.hbuf := rfl
@[simp] theorem hostSetLength_hbufLen (n : BitVec 33) (s : State) : (hostSetLength n s).hbufLen = n := rfl
@[simp] theorem hostSetLength_outstanding (n : BitVec 33) (s : State) : (hostSetLength n s).outstanding = s.outstanding := rfl
@[simp] theorem hostSetLength_lenAtIssue (n : BitVec 33) (s : State) : (hostSetLength n s).lenAtIssue = s.lenAtIssue := rfl
@[simp] theorem hostSetLength_touched (n : BitVec 33) (s : State) : (hostSetLength n s).touched = s.touched := rfl
@[simp] theorem hostSetLength_lenChanged (n : BitVec 33) (s : State) : (hostSetLength n s).lenChanged = (s.lenChanged || (s.outstanding.isSome && n != s.hbufLen)) := rfl
@[simp] theorem hostSetLength_draws (n : BitVec 33) (s : State) : (hostSetLength n s).draws = s.draws := rfl
@[simp] theorem hostSetLength_schedule (n : BitVec 33) (s : State) : (hostSetLength n s).schedule = s.schedule := rfl

@[simp] theorem resetCore_stgPoly (s : State) : (resetCore s).stgPoly = State.reset.stgPoly := rfl
@[simp] theorem resetCore_stgInit (s : State) : (resetCore s).stgInit = State.reset.stgInit := rfl
@[simp] theorem resetCore_stgXorOut (s : State) : (resetCore s).stgXorOut = State.reset.stgXorOut := rfl
@[simp] theorem resetCore_cfgWidth (s : State) : (resetCore s).cfgWidth = State.reset.cfgWidth := rfl
@[simp] theorem resetCore_cfgPoly (s : State) : (resetCore s).cfgPoly = State.reset.cfgPoly := rfl
@[simp] theorem resetCore_cfgInit (s : State) : (resetCore s).cfgInit = State.reset.cfgInit := rfl
@[simp] theorem resetCore_cfgXorOut (s : State) : (resetCore s).cfgXorOut = State.reset.cfgXorOut := rfl
@[simp] theorem resetCore_cfgRefIn (s : State) : (resetCore s).cfgRefIn = State.reset.cfgRefIn := rfl
@[simp] theorem resetCore_cfgRefOut (s : State) : (resetCore s).cfgRefOut = State.reset.cfgRefOut := rfl
@[simp] theorem resetCore_configured (s : State) : (resetCore s).configured = State.reset.configured := rfl
@[simp] theorem resetCore_table (s : State) : (resetCore s).table = State.reset.table := rfl
@[simp] theorem resetCore_crc (s : State) : (resetCore s).crc = State.reset.crc := rfl
@[simp] theorem resetCore_rspStatus (s : State) : (resetCore s).rspStatus = State.reset.rspStatus := rfl
@[simp] theorem resetCore_rspData (s : State) : (resetCore s).rspData = State.reset.rspData := rfl
@[simp] theorem resetCore_rspValid (s : State) : (resetCore s).rspValid = State.reset.rspValid := rfl
@[simp] theorem resetCore_rstN (s : State) : (resetCore s).rstN = s.rstN := rfl
@[simp] theorem resetCore_hbuf (s : State) : (resetCore s).hbuf = s.hbuf := rfl
@[simp] theorem resetCore_hbufLen (s : State) : (resetCore s).hbufLen = s.hbufLen := rfl
@[simp] theorem resetCore_outstanding (s : State) : (resetCore s).outstanding = State.reset.outstanding := rfl
@[simp] theorem resetCore_lenAtIssue (s : State) : (resetCore s).lenAtIssue = State.reset.lenAtIssue := rfl
@[simp] theorem resetCore_touched (s : State) : (resetCore s).touched = State.reset.touched := rfl
@[simp] theorem resetCore_lenChanged (s : State) : (resetCore s).lenChanged = State.reset.lenChanged := rfl
@[simp] theorem resetCore_draws (s : State) : (resetCore s).draws = s.draws := rfl
@[simp] theorem resetCore_schedule (s : State) : (resetCore s).schedule = s.schedule := rfl

end Sys2Proof.Machine
end

