-- ==== Sys2Proof/Laws/Ops.lean ====
section
/-! SUPPORT. One lemma per shared operation, saying once what it does: bit gathering and masks, the host's memory, table
entries, and the outcome of a command. -/

namespace Sys2Proof.Machine

/-! ### Bits -/

/-- The bits of a gathered word. -/
theorem getLsbD_gatherBits (f : Nat → Bool) (n i : Nat) :
    (gatherBits f n).getLsbD i = (decide (i < n) && decide (i < 64) && f i) := by
  induction n with
  | zero => simp [gatherBits]
  | succ n ih =>
    rw [gatherBits, BitVec.getLsbD_or, ih]
    by_cases hin : i = n
    · subst hin
      cases f i <;> simp
    · have hlt : i < n + 1 ↔ i < n := by omega
      split
      · have h1 : (1#64 <<< n).getLsbD i = false := by
          simp only [BitVec.getLsbD_shiftLeft, BitVec.getLsbD_one]
          have : n ≤ i → i - n ≠ 0 := by omega
          by_cases hni : n ≤ i
          · simp [this hni]
          · simp [Nat.lt_of_not_le hni]
        simp [h1, hlt]
      · simp [hlt]

/-- The bits of `mask(w)`. -/
theorem getLsbD_mask (w i : Nat) : (mask w).getLsbD i = (decide (i < 64) && decide (i < w)) := by
  simp [mask, BitVec.getLsbD_ofNat, Nat.testBit_two_pow_sub_one]

/-- Masking to `w` bits leaves a value below `2^w`. -/
theorem and_mask_lt (x : Word) (w : Nat) : (x &&& mask w).toNat < 2 ^ w := by
  rw [BitVec.toNat_and, mask, BitVec.toNat_ofNat]
  have h1 : (2 ^ w - 1) % 2 ^ 64 ≤ 2 ^ w - 1 := Nat.mod_le _ _
  have h2 := Nat.and_le_right (n := x.toNat) (m := (2 ^ w - 1) % 2 ^ 64)
  have := Nat.two_pow_pos w
  omega

/-- An exclusive or of two values below `2^w` is below `2^w`. -/
theorem xor_lt {x y : Word} {w : Nat} (hx : x.toNat < 2 ^ w) (hy : y.toNat < 2 ^ w) : (x ^^^ y).toNat < 2 ^ w := by
  rw [BitVec.toNat_xor]
  exact Nat.xor_lt_two_pow hx hy

/-! ### The host's memory -/

/-- A read after a write to the same index gives the value written. -/
@[simp] theorem Memory.read_write_self (m : Memory) (i : Nat) (v : Byte) : Memory.read (Memory.write m i v) i = some v := by
  induction m with
  | nil => simp [Memory.write, Memory.read]
  | cons c rest ih =>
    obtain ⟨j, u⟩ := c
    simp only [Memory.write]
    split
    · simp [Memory.read]
    · split
      · simp [Memory.read]
      · next h => simp [Memory.read, h, ih]

/-- A write leaves every other index alone. -/
theorem Memory.read_write_other (m : Memory) {i k : Nat} (v : Byte) (h : k ≠ i) :
    Memory.read (Memory.write m i v) k = Memory.read m k := by
  induction m with
  | nil => simp [Memory.write, Memory.read, h]
  | cons c rest ih =>
    obtain ⟨j, u⟩ := c
    simp only [Memory.write]
    split
    · simp [Memory.read, h]
    · split
      · next heq => subst heq; simp [Memory.read, h]
      · simp [Memory.read, ih]

/-- An index of the list after a write is the written one or an old one. -/
theorem Memory.mem_write {m : Memory} {i : Nat} {v : Byte} {c : Host.Cell} (h : c ∈ Memory.write m i v) :
    c = (i, v) ∨ c ∈ m := by
  induction m with
  | nil => simpa [Memory.write] using h
  | cons d rest ih =>
    obtain ⟨j, u⟩ := d
    simp only [Memory.write] at h
    split at h
    · simpa using h
    · split at h
      · simp only [List.mem_cons] at h ⊢
        tauto
      · simp only [List.mem_cons] at h ⊢
        rcases h with h | h
        · tauto
        · have := ih h
          tauto

/-- A write keeps the canonical form. -/
theorem Memory.write_wf {m : Memory} (h : Memory.wf m) {i : Nat} (hi : i < 2 ^ 32) (v : Byte) :
    Memory.wf (Memory.write m i v) := by
  refine ⟨?_, ?_⟩
  · have hp := h.1
    clear h
    induction m with
    | nil => simp [Memory.write]
    | cons c rest ih =>
      obtain ⟨j, u⟩ := c
      rw [List.pairwise_cons] at hp
      simp only [Memory.write]
      split
      · next hij =>
        rw [List.pairwise_cons]
        refine ⟨?_, List.pairwise_cons.mpr hp⟩
        intro d hd
        rcases List.mem_cons.mp hd with rfl | hd
        · exact hij
        · exact lt_trans hij (hp.1 d hd)
      · split
        · next heq => subst heq; exact List.pairwise_cons.mpr hp
        · next hlt hne =>
          rw [List.pairwise_cons]
          refine ⟨?_, ih hp.2⟩
          intro d hd
          rcases Memory.mem_write hd with rfl | hd
          · show j < i
            omega
          · exact hp.1 d hd
  · intro c hc
    rcases Memory.mem_write hc with rfl | hc
    · exact hi
    · exact h.2 c hc

/-- Reset memory has the canonical form. -/
theorem Memory.reset_wf : Memory.wf State.reset.hbuf := by simp [State.reset, Memory.wf]

/-! ### Tables -/

/-- An entry of a built table. -/
@[simp] theorem tableEntryAt_buildTable (w : Nat) (p : Word) (ri : Bool) (i : BitVec 8) :
    tableEntryAt (buildTable w p ri) i = builtEntry w p ri i.toNat := by
  simp [tableEntryAt, buildTable]

/-- The bytes consumed by no byte at all. -/
@[simp] theorem consumedBytes_zero (s : State) (offset : Nat) : consumedBytes s offset 0 = [] := rfl

/-- The number of bytes consumed. -/
@[simp] theorem consumedBytes_length (s : State) (offset n : Nat) : (consumedBytes s offset n).length = n := by
  simp [consumedBytes]

/-- A range of bytes is its first part and then the rest. -/
theorem stepBytes_append (t : Vector Word 256) (ri : Bool) (c : Word) (xs ys : List Byte) :
    stepBytes t ri c (xs ++ ys) = stepBytes t ri (stepBytes t ri c xs) ys := by
  simp [stepBytes]

/-! ### The outcome of a command -/

/-- Everything a command that needs a configuration can do. -/
theorem whenConfigured_cases (s r : State) :
    (s.configured = true ∧ whenConfigured s r = r) ∨
      (s.configured = false ∧ whenConfigured s r = raise .notConfigured s) := by
  cases h : s.configured <;> simp [whenConfigured, h]

/-- Everything a command can do: it answers a next state, which is an error response, a response that changes nothing else,
or a response after the one write its rule names. -/
theorem exec_cases (i : Instr) (s : State) :
    ∃ t, exec i s = .next t ∧
      ((∃ e, t = raise e s) ∨ (∃ d, t = respond statusOk d s) ∨
       (∃ v, i = .setpoly v ∧ t = respond statusOk 0 { s with stgPoly := v }) ∨
       (∃ v, i = .setinit v ∧ t = respond statusOk 0 { s with stgInit := v }) ∨
       (∃ v, i = .setxorout v ∧ t = respond statusOk 0 { s with stgXorOut := v }) ∨
       (∃ w ri ro, i = .config w ri ro ∧ widthLegal w = true ∧ t = respond statusOk 0 (latch w ri ro s)) ∨
       (i = .reset ∧ s.configured = true ∧
          t = respond statusOk 0 { s with crc := initialCrc s.cfgWidth.toNat s.cfgInit s.cfgRefIn }) ∨
       (∃ b, i = .update b ∧ s.configured = true ∧
          t = respond statusOk 0 { s with crc := stepByte s.table s.cfgRefIn s.crc b }) ∨
       (∃ o l, i = .updater o l ∧ s.configured = true ∧ rangeLegal o l s.lenAtIssue = true ∧
          t = respond statusOk 0 { s with
            crc := stepBytes s.table s.cfgRefIn s.crc (consumedBytes s o.toNat l.toNat)
            draws := s.draws + l.toNat })) := by
  cases i with
  | nop => exact ⟨_, rfl, .inr (.inl ⟨0, rfl⟩)⟩
  | setpoly v => exact ⟨_, rfl, by simp⟩
  | setinit v => exact ⟨_, rfl, by simp⟩
  | setxorout v => exact ⟨_, rfl, by simp⟩
  | config w ri ro =>
    cases h : widthLegal w
    · exact ⟨raise .invalidParameter s, by simp [exec, execConfig, h], .inl ⟨_, rfl⟩⟩
    · exact ⟨_, by simp only [exec, execConfig, h, if_true],
        .inr (.inr (.inr (.inr (.inr (.inl ⟨w, ri, ro, rfl, h, rfl⟩)))))⟩
  | reset =>
    refine ⟨_, rfl, ?_⟩
    rcases whenConfigured_cases s _ with ⟨h, e⟩ | ⟨_, e⟩ <;> rw [e]
    · simp [h]
    · exact .inl ⟨_, rfl⟩
  | update b =>
    refine ⟨_, rfl, ?_⟩
    rcases whenConfigured_cases s _ with ⟨h, e⟩ | ⟨_, e⟩ <;> rw [e]
    · simp [h]
    · exact .inl ⟨_, rfl⟩
  | updater o l =>
    refine ⟨_, rfl, ?_⟩
    rcases whenConfigured_cases s _ with ⟨h, e⟩ | ⟨_, e⟩ <;> rw [e]
    · cases hr : rangeLegal o l s.lenAtIssue
      · exact .inl ⟨.outOfRange, rfl⟩
      · simp [h, hr]
    · exact .inl ⟨_, rfl⟩
  | getvalue =>
    refine ⟨_, rfl, ?_⟩
    rcases whenConfigured_cases s _ with ⟨_, e⟩ | ⟨_, e⟩ <;> rw [e]
    · exact .inr (.inl ⟨_, rfl⟩)
    · exact .inl ⟨_, rfl⟩
  | tblrd i =>
    refine ⟨_, rfl, ?_⟩
    rcases whenConfigured_cases s _ with ⟨_, e⟩ | ⟨_, e⟩ <;> rw [e]
    · exact .inr (.inl ⟨_, rfl⟩)
    · exact .inl ⟨_, rfl⟩
  | reflect w v =>
    cases h : widthLegal w
    · exact ⟨raise .invalidParameter s, by simp [exec, execReflect, h], .inl ⟨_, rfl⟩⟩
    · exact ⟨respond statusOk (reflect v w.toNat) s, by simp only [exec, execReflect, h, if_true], .inr (.inl ⟨_, rfl⟩)⟩

end Sys2Proof.Machine
end

