-- ==== Sys2Proof/Laws/Port.lean ====
section
/-! SUPPORT. What one step can do, said once: the core's turn, and each move of the host; a run by its first step; the reads
after host writes. -/

namespace Sys2Proof.Machine

/-- The core's turn with a decodable command outstanding. -/
theorem coreTurn_decoded (run : Instr → State → Host.Outcome State Fault Refusal) {s : State} {b : Beat} {i : Instr}
    (ho : s.outstanding = some b) (hd : decode b = some i) : coreTurn run s = run i s := by
  simp [coreTurn, ho, hd]

/-- The core's turn with a word outstanding that decode rejects. -/
theorem coreTurn_illegal (run : Instr → State → Host.Outcome State Fault Refusal) {s : State} {b : Beat}
    (ho : s.outstanding = some b) (hd : decode b = none) : coreTurn run s = .next (raise .illegalCommand s) := by
  simp [coreTurn, ho, hd]

/-- The core's turn with nothing outstanding. -/
theorem coreTurn_idle (run : Instr → State → Host.Outcome State Fault Refusal) {s : State} (ho : s.outstanding = none) :
    coreTurn run s = .next s := by
  simp [coreTurn, ho]

/-- A step with no move left is the core's turn. -/
theorem step_of_no_move {s : State} (h : s.schedule = []) : step s = coreTurn exec s := by
  simp [step, scheduledStep, h]

/-- A step with a move left takes it off the schedule and makes it. -/
theorem step_of_move {s : State} {m : Move} {rest : List Move} (h : s.schedule = m :: rest) :
    step s = takeMove exec m { s with schedule := rest } := by
  simp [step, scheduledStep, h]

/-- Everything the core's turn can do. -/
theorem coreTurn_cases (s : State) :
    (s.outstanding = none ∧ coreTurn exec s = .next s) ∨
    (∃ b, s.outstanding = some b ∧ decode b = none ∧ coreTurn exec s = .next (raise .illegalCommand s)) ∨
    (∃ b i, s.outstanding = some b ∧ decode b = some i ∧ coreTurn exec s = exec i s) := by
  cases ho : s.outstanding with
  | none => exact .inl ⟨rfl, coreTurn_idle exec ho⟩
  | some b =>
    cases hd : decode b with
    | none => exact .inr (.inl ⟨b, rfl, hd, coreTurn_illegal exec ho hd⟩)
    | some i => exact .inr (.inr ⟨b, i, rfl, hd, coreTurn_decoded exec ho hd⟩)

/-- Everything a step that answers a next state can do. -/
theorem step_cases {s t : State} (h : step s = .next t) :
    ∃ r : State, (∃ rest, r = { s with schedule := rest }) ∧
      (coreTurn exec r = .next t ∨ (∃ b, t = presentBeat b r) ∨ (∃ i v, t = hostWriteByte i v r) ∨
       (∃ n : BitVec 33, n.toNat ≤ Config.hbufMax ∧ t = hostSetLength n r) ∨ (∃ level, t = driveRstN level r)) := by
  cases hs : s.schedule with
  | nil =>
    rw [step_of_no_move hs] at h
    exact ⟨s, ⟨s.schedule, rfl⟩, .inl h⟩
  | cons m rest =>
    rw [step_of_move hs] at h
    refine ⟨_, ⟨rest, rfl⟩, ?_⟩
    cases m with
    | core => exact .inl h
    | present b => exact .inr (.inl ⟨b, by simpa [takeMove] using h.symm⟩)
    | writeByte i v => exact .inr (.inr (.inl ⟨i, v, by simpa [takeMove] using h.symm⟩))
    | setLength n =>
      simp only [takeMove] at h
      split at h
      · next hn => exact .inr (.inr (.inr (.inl ⟨n, hn, by simpa using h.symm⟩)))
      · cases h
    | driveReset level => exact .inr (.inr (.inr (.inr ⟨level, by simpa [takeMove] using h.symm⟩)))

/-- A run whose first step answers a next state goes on from there. -/
theorem run_of_step {s t : State} {n : Nat} (h : step s = .next t) :
    Host.Core.run Sys2Proof.core (n + 1) s = Host.Core.run Sys2Proof.core n t := by
  simp only [Host.Core.run]
  rw [show Sys2Proof.core.step s = .next t from h]

/-- What every index reads as after one host write. -/
theorem hbufRead_hostWriteByte (i : BitVec 32) (v : Byte) (s : State) (a : Nat) :
    hbufRead (hostWriteByte i v s) a = if i.toNat = a then v else hbufRead s a := by
  unfold hbufRead hostWriteByte
  by_cases h : i.toNat = a
  · subst h; simp
  · simp [h, Memory.read_write_other _ _ (Ne.symm h)]

/-- With no write, an index reads as before. -/
theorem byteAfterWrites_nil (s : State) (a : Nat) : byteAfterWrites s [] a = hbufRead s a := rfl

/-- The first write made, the others follow; the schedule does not matter. -/
theorem byteAfterWrites_cons (s : State) (w : BitVec 32 × Byte) (writes : List (BitVec 32 × Byte)) (rest : List Move)
    (a : Nat) : byteAfterWrites s (w :: writes) a =
      byteAfterWrites (hostWriteByte w.1 w.2 { s with schedule := rest }) writes a := by
  unfold byteAfterWrites
  rw [hbufRead_hostWriteByte]
  rfl

end Sys2Proof.Machine
end

