-- ==== Sys2Proof/Laws/PerInstr.lean ====
section
/-! SUPPORT. The family `EncodedRow` of statements about the instruction as syntax, one lemma per constructor: the word that
`encode` gives lies in the instruction's own row of the opcode map (R74), so its must-be-zero bits are 0 (R72). -/

namespace Sys2Proof.Laws.EncodedRow

/-- The number of the instruction's row in the opcode map, its `OP` (R74). -/
def rowNumber : Instr → Nat
  | .nop => 0
  | .setpoly _ => 1
  | .setinit _ => 2
  | .setxorout _ => 3
  | .config _ _ _ => 4
  | .reset => 5
  | .update _ => 6
  | .updater _ _ => 7
  | .getvalue => 8
  | .tblrd _ => 9
  | .reflect _ _ => 10

/-- The encoded word selects its row. -/
def Statement (i : Instr) : Prop :=
  ∃ row, opcodeTable[rowNumber i]? = some row ∧ (encode i).word &&& row.mask = row.pattern

/-- A field of zeros below, its bits within `k`, and zeros in the mask there. -/
theorem shifted_and_mask {n k : Nat} (x : BitVec n) (m : CmdWord)
    (h : ∀ j < n, m.getLsbD (j + k) = false) : (x.setWidth 32 <<< k) &&& m = 0#32 := by
  apply BitVec.eq_of_getLsbD_eq
  intro j _
  rw [BitVec.getLsbD_and, BitVec.getLsbD_shiftLeft, BitVec.getLsbD_setWidth, BitVec.getLsbD_zero]
  by_cases hk : j < k
  · simp [hk]
  · by_cases hx : j - k < n
    · have := h (j - k) hx
      rw [Nat.sub_add_cancel (Nat.le_of_not_lt hk)] at this
      simp [this]
    · simp [BitVec.getLsbD_of_ge x (j - k) (Nat.le_of_not_lt hx)]

/-- A mask distributes over the fields of a word. -/
theorem or_and (x y m : CmdWord) : (x ||| y) &&& m = (x &&& m) ||| (y &&& m) := by
  apply BitVec.eq_of_getLsbD_eq
  intro j _
  simp [Bool.and_or_distrib_right]

theorem nop : Statement .nop := ⟨_, rfl, by decide⟩

theorem setpoly (v : Word) : Statement (.setpoly v) := ⟨_, rfl, by simp [encode]⟩

theorem setinit (v : Word) : Statement (.setinit v) := ⟨_, rfl, by simp [encode]⟩

theorem setxorout (v : Word) : Statement (.setxorout v) := ⟨_, rfl, by simp [encode]⟩

theorem config (w : BitVec 7) (ri ro : Bool) : Statement (.config w ri ro) := by
  refine ⟨_, rfl, ?_⟩
  simp only [encode, bitWord, or_and]
  rw [shifted_and_mask w _ (by decide), shifted_and_mask (BitVec.ofBool ri) _ (by decide),
    shifted_and_mask (BitVec.ofBool ro) _ (by decide)]
  decide

theorem reset : Statement .reset := ⟨_, rfl, by decide⟩

theorem update (b : Byte) : Statement (.update b) := by
  refine ⟨_, rfl, ?_⟩
  simp only [encode, or_and]
  rw [shifted_and_mask b _ (by decide)]
  decide

theorem updater (o l : BitVec 32) : Statement (.updater o l) := ⟨_, rfl, by simp [encode]⟩

theorem getvalue : Statement .getvalue := ⟨_, rfl, by decide⟩

theorem tblrd (i : BitVec 8) : Statement (.tblrd i) := by
  refine ⟨_, rfl, ?_⟩
  simp only [encode, or_and]
  rw [shifted_and_mask i _ (by decide)]
  decide

theorem reflect (w : BitVec 7) (v : Word) : Statement (.reflect w v) := by
  refine ⟨_, rfl, ?_⟩
  simp only [encode, or_and]
  rw [shifted_and_mask w _ (by decide)]
  decide

end Sys2Proof.Laws.EncodedRow
end

