-- ==== Sys2Proof/Tests/Slice0.lean ====
section
/-! SUPPORT. Tests of single steps, their expected values from spec/ (95_test_vectors.md unless another source is named), the
smoke tests of WellFormed, and a witness for the hypotheses of every statement that has some. -/

namespace Sys2Proof.Tests

open Sys2Proof.Machine

/-! ### Small states -/

/-- `HBUF = "123456789"`, `HBUF_LEN = 9`, the length sampled (the start of 95_test_vectors.md section 10). -/
def digitsState : State :=
  { State.reset with
    hbuf := [(0, 0x31), (1, 0x32), (2, 0x33), (3, 0x34), (4, 0x35), (5, 0x36), (6, 0x37), (7, 0x38), (8, 0x39)]
    hbufLen := 9, lenAtIssue := 9 }

/-- `digitsState` with a parameter set latched. -/
def configuredState (w : BitVec 7) (p i x : Word) (ri ro : Bool) : State :=
  latch w ri ro { digitsState with stgPoly := p, stgInit := i, stgXorOut := x }

/-- CRC-32 configured (R79). -/
def crc32State : State := configuredState 32 0x04C11DB7 0xFFFFFFFF 0xFFFFFFFF true true

/-- The CRC-12 parameters of program P4 configured. -/
def crc12State : State := configuredState 12 0x80F 0 0 false true

/-- A predicate of the next state; false of a stop. -/
def nextIs (o : Host.Outcome State Fault Refusal) (p : State → Bool) : Bool :=
  match o with
  | .next t => p t
  | .fault _ => false
  | .refused _ => false

/-- Status and data of the next state's response. -/
def answers (o : Host.Outcome State Fault Refusal) (status : BitVec 3) (data : Word) : Bool :=
  nextIs o (fun t => t.rspValid && t.rspStatus == status && t.rspData == data)

/-- A state with a beat outstanding. -/
def withBeat (s : State) (word : CmdWord) (data : Word) : State := { s with outstanding := some ⟨word, data⟩ }

/-! ### WellFormed: each check refuses an ill-formed term -/

theorem test_wf_setpoly : CoreLine.wellFormed (.setpoly (2 ^ 64)) = false := by decide
theorem test_wf_setinit : CoreLine.wellFormed (.setinit (2 ^ 64)) = false := by decide
theorem test_wf_setxorout : CoreLine.wellFormed (.setxorout (2 ^ 64)) = false := by decide
theorem test_wf_config : CoreLine.wellFormed (.config 128 0 0) = false ∧ CoreLine.wellFormed (.config 0 2 0) = false ∧
    CoreLine.wellFormed (.config 0 0 2) = false ∧ CoreLine.wellFormed (.config 127 1 1) = true := by decide
theorem test_wf_update : CoreLine.wellFormed (.update 256) = false := by decide
theorem test_wf_updater : CoreLine.wellFormed (.updater (2 ^ 32) 0) = false ∧
    CoreLine.wellFormed (.updater 0 (2 ^ 32)) = false := by decide
theorem test_wf_tblrd : CoreLine.wellFormed (.tblrd 256) = false := by decide
theorem test_wf_reflect : CoreLine.wellFormed (.reflect 128 0) = false ∧
    CoreLine.wellFormed (.reflect 0 (2 ^ 64)) = false := by decide
theorem test_wf_updates_needs_a_byte : AsmLine.wellFormed (.updates []) = false ∧
    AsmLine.wellFormed (.updates [0, 256]) = false := by decide

/-! ### Decode: a word of each command, written out from R72's patterns -/

theorem test_decode_nop : decode ⟨0b00000000000000000000000000000000, 0⟩ = some .nop := by decide
theorem test_decode_setpoly : decode ⟨0b00000000000000000000000000000001, 0x04C11DB7⟩ = some (.setpoly 0x04C11DB7) := by
  decide
theorem test_decode_setinit : decode ⟨0b00000000000000000000000000000010, 0xFFFFFFFF⟩ = some (.setinit 0xFFFFFFFF) := by
  decide
theorem test_decode_setxorout : decode ⟨0b00000000000000000000000000000011, 7⟩ = some (.setxorout 7) := by decide
theorem test_decode_config : decode ⟨0b00000001000011000000000000000100, 0⟩ = some (.config 12 false true) ∧
    decode ⟨0b00000000110000000000000000000100, 0⟩ = some (.config 64 true false) := by decide
theorem test_decode_reset : decode ⟨0b00000000000000000000000000000101, 0⟩ = some .reset := by decide
theorem test_decode_update : decode ⟨0b00000000000000000011000100000110, 0⟩ = some (.update 0x31) := by decide
theorem test_decode_updater : decode ⟨0b00000000000000000000000000000111, 0x0000000600000003⟩ = some (.updater 3 6) := by
  decide
theorem test_decode_getvalue : decode ⟨0b00000000000000000000000000001000, 0⟩ = some .getvalue := by decide
theorem test_decode_tblrd : decode ⟨0b00000000000000001000000000001001, 0⟩ = some (.tblrd 0x80) := by decide
theorem test_decode_reflect : decode ⟨0b00000000001000000000000000001010, 5⟩ = some (.reflect 32 5) := by decide
theorem test_decode_must_be_zero : decode ⟨0x00000100, 0⟩ = none ∧ decode ⟨0x80000000, 0⟩ = none ∧
    decode ⟨0x00000017, 0⟩ = none ∧ decode ⟨0x00001004, 0⟩ = none ∧ decode ⟨0x00FF0006, 0⟩ = none ∧
    decode ⟨0x0080000A, 0⟩ = none := by decide
theorem test_decode_reserved : decode ⟨0xB, 0⟩ = none ∧ decode ⟨0xC, 0⟩ = none ∧ decode ⟨0xD, 0⟩ = none ∧
    decode ⟨0xE, 0⟩ = none ∧ decode ⟨0xFFFFFFFF, 0⟩ = none := by decide

/-! ### The commands (95_test_vectors.md sections 3 to 9) -/

theorem test_nop : answers (exec .nop State.reset) 0 0 = true := by decide
theorem test_setpoly : nextIs (exec (.setpoly 0x8005) crc12State)
    (fun t => t.stgPoly == 0x8005 && t.cfgPoly == 0x80F && t.rspStatus == 0) = true := by decide
theorem test_setinit : nextIs (exec (.setinit 0xFFFFFFFF) State.reset)
    (fun t => t.stgInit == 0xFFFFFFFF && t.rspStatus == 0) = true := by decide
theorem test_setxorout : nextIs (exec (.setxorout 0xFFFF) crc12State)
    (fun t => t.stgXorOut == 0xFFFF && checksum t == 0) = true := by decide
/-- Section 6, rows 1 and 2: high staging bits are dropped, and CONFIG 16 reuses the staging registers. -/
theorem test_config_masks : nextIs (exec (.config 16 true true)
      { State.reset with stgPoly := 0xFFFFFFFF04C11DB7, stgInit := 0x12345678FFFFFFFF, stgXorOut := 0xABCDEF00FFFFFFFF })
    (fun t => t.cfgPoly == 0x1DB7 && t.cfgInit == 0xFFFF && t.cfgXorOut == 0xFFFF && t.crc == 0xFFFF && t.configured) = true := by
  decide
theorem test_config_invalid : answers (exec (.config 65 true true) crc32State) 1 0 = true ∧
    nextIs (exec (.config 0 false false) crc32State) (fun t => t.cfgWidth == 32 && t.rspStatus == 1) = true := by
  decide
/-- Section 8, width 63: `Reflect(0x5, 63)`. -/
theorem test_reset : nextIs (exec .reset { configuredState 63 3 5 7 true false with crc := 1 })
    (fun t => t.crc == 0x5000000000000000 && t.rspStatus == 0) = true := by decide
theorem test_reset_not_configured : answers (exec .reset digitsState) 3 0 = true := by decide
/-- Section 7.1, first rows of both tables. -/
theorem test_update : nextIs (exec (.update 0x31) crc32State) (fun t => t.crc == 0x7C231048) = true ∧
    nextIs (exec (.update 0x31) (configuredState 32 0x04C11DB7 0xFFFFFFFF 0xFFFFFFFF false false))
      (fun t => t.crc == 0x9EFBCF9300000000) = true := by decide +kernel
theorem test_update_not_configured : answers (exec (.update 0xFF) digitsState) 3 0 = true := by decide
/-- Section 10, P1 step 5, and P4 step 5. -/
theorem test_updater : nextIs (exec (.updater 0 9) crc32State) (fun t => t.crc == 0x340BC6D9 && t.rspStatus == 0) = true ∧
    nextIs (exec (.updater 0 9) crc12State) (fun t => t.crc == 0xF5B0000000000000) = true := by decide +kernel
/-- Section 7.3: the bound is the exact sum. -/
theorem test_updater_bounds : answers (exec (.updater 5 5) crc32State) 2 0 = true ∧
    answers (exec (.updater 1 0xFFFFFFFF) crc32State) 2 0 = true ∧ answers (exec (.updater 10 0) crc32State) 2 0 = true ∧
    answers (exec (.updater 9 0) crc32State) 0 0 = true ∧ answers (exec (.updater 5 5) digitsState) 3 0 = true := by
  decide
/-- E1 and P4 step 6. -/
theorem test_getvalue : answers (exec .getvalue { crc32State with crc := 0x340BC6D9 }) 0 0xCBF43926 = true ∧
    answers (exec .getvalue { crc12State with crc := 0xF5B0000000000000 }) 0 0xDAF = true := by decide
/-- Section 8: the two cases with `refIn ≠ refOut` at width 32 and 63, and the path `refIn = refOut = 0`. -/
theorem test_getvalue_mixed :
    answers (exec .getvalue { configuredState 63 3 5 7 true false with crc := 0x7DBE165697D71555 }) 0 0x555475F4B5343ED8 = true ∧
    answers (exec .getvalue { configuredState 32 0x04C11DB7 0xFFFFFFFF 0xFFFFFFFF false false with crc := 0x0376E6E700000000 })
      0 0xFC891918 = true ∧ answers (exec .getvalue digitsState) 3 0 = true := by decide
/-- Section 5. -/
theorem test_tblrd : answers (exec (.tblrd 0x80) crc32State) 0 0xEDB88320 = true ∧
    answers (exec (.tblrd 0x31) crc12State) 0 0x9EF0000000000000 = true := by decide
theorem test_tblrd_not_configured : answers (exec (.tblrd 1) digitsState) 3 0 = true := by decide
/-- Section 4. -/
theorem test_reflect : answers (exec (.reflect 64 0x0123456789ABCDEF) State.reset) 0 0xF7B3D591E6A2C480 = true ∧
    answers (exec (.reflect 5 0xFFFFFFE5) State.reset) 0 0x14 = true ∧
    answers (exec (.reflect 63 0x0123456789ABCDEF) State.reset) 0 0x7BD9EAC8F3516240 = true := by decide
theorem test_reflect_invalid : answers (exec (.reflect 0 5) State.reset) 1 0 = true ∧
    answers (exec (.reflect 127 0) State.reset) 1 0 = true := by decide
/-- Section 2, E1, against the reference of section 1. -/
theorem test_reference : refCrc 32 0x04C11DB7 0xFFFFFFFF true true 0xFFFFFFFF
    [0x31, 0x32, 0x33, 0x34, 0x35, 0x36, 0x37, 0x38, 0x39] = 0xCBF43926 := by decide +kernel

/-! ### The ports and the assembler -/

/-- R81: the first step issues the beat, the second answers it. -/
theorem test_issue_then_answer : nextIs (Host.Core.run Sys2Proof.core 1
      { State.reset with schedule := [.present ⟨0x0020000A, 0x04C11DB7⟩, .core] })
      (fun t => !t.rspValid && !cmdReady t) = true ∧
    nextIs (Host.Core.run Sys2Proof.core 2 { State.reset with schedule := [.present ⟨0x0020000A, 0x04C11DB7⟩, .core] })
      (fun t => t.rspValid && cmdReady t && t.rspData == 0xEDB88320) = true := by decide
/-- R62: a host write while the UPDATER is outstanding races the byte it writes and no other. -/
theorem test_host_write_in_flight_is_raced : nextIs (step
      { withBeat crc32State 7 0x0000000900000000 with schedule := [.writeByte 4 0] })
      (fun t => raced t 4 && !raced t 3 && hbufRead t 4 == 0) = true := by decide
theorem test_with_fetch_word : nextIs (step (State.reset.withFetchWord 32 0x00000008)) (fun t => t.rspStatus == 3) = true := by
  decide
/-- R78: case, commas, hexadecimal and comments. -/
theorem test_assemble_text :
    assembleText "CONFIG 12, 0, 1 ; width\n\nupdater 3,6\npreset crc32".toList =
      some [⟨0x010C0004, 0⟩, ⟨7, 0x0000000600000003⟩, ⟨1, 0x04C11DB7⟩, ⟨2, 0xFFFFFFFF⟩, ⟨3, 0xFFFFFFFF⟩, ⟨0x01A00004, 0⟩] ∧
    assembleText "update 0x100".toList = none ∧ assembleText "updates 0x31, 50".toList = some [⟨0x3106, 0⟩, ⟨0x3206, 0⟩] := by
  decide

/-! ### Witnesses: the hypotheses of every statement that has some are met together, each clause at a boundary value -/

theorem witness_EncodeOfDecodeIsTheBeat : decode ⟨0x0000FF06, 9⟩ = some (.update 0xFF) ∧
    Format.usesData (Instr.format (.update 0xFF)) = false ∧ decode ⟨0x1, 9⟩ = some (.setpoly 9) ∧
    Format.usesData (Instr.format (.setpoly 9)) = true := by decide
theorem witness_DecodeSelectsTheOneMatchingRow : ∃ r ∈ opcodeTable, (0x01FF0004 : CmdWord) &&& r.mask = r.pattern := by
  decide
theorem witness_DecodedWordsHaveNoReservedBits :
    (decode ⟨0x8, 0⟩ = some .getvalue ∧ Instr.format .getvalue = .N) ∧
    (decode ⟨0x3, 1⟩ = some (.setxorout 1) ∧ Instr.format (.setxorout 1) = .D) ∧
    (decode ⟨0x0000FF09, 0⟩ = some (.tblrd 0xFF) ∧ Instr.format (.tblrd 0xFF) = .B) ∧
    (decode ⟨0x01FF0004, 0⟩ = some (.config 127 true true) ∧ Instr.format (.config 127 true true) = .C) ∧
    (decode ⟨0x007F000A, 0⟩ = some (.reflect 127 0) ∧ Instr.format (.reflect 127 0) = .K) := by decide
theorem witness_DataIsIgnoredByFormatsNBC :
    (decode ⟨0x5, 1⟩ = some .reset ∧ Instr.format .reset = .N) ∧
    (decode ⟨0x6, 1⟩ = some (.update 0) ∧ Instr.format (.update 0) = .B) ∧
    (decode ⟨0x4, 1⟩ = some (.config 0 false false) ∧ Instr.format (.config 0 false false) = .C) := by decide
theorem witness_PseudoInstructionsAssembleToTheirExpansions : ([0x31] : List Byte) ≠ [] := by decide
theorem witness_StepRunsTheDecodedInstruction : ∃ s : State, s.outstanding = some ⟨0x8, 0⟩ ∧
    decode ⟨0x8, 0⟩ = some .getvalue ∧ s.schedule = .core :: [] := ⟨{ withBeat crc32State 8 0 with schedule := [.core] }, by
  decide⟩
theorem witness_StepRunsTheDecodedInstruction_idle : (withBeat crc32State 8 0).outstanding = some ⟨0x8, 0⟩ ∧
    decode ⟨0x8, 0⟩ = some .getvalue ∧ (withBeat crc32State 8 0).schedule = [] := by decide
theorem witness_IllegalCommandIsAnsweredWithStatusFour : (withBeat digitsState 0xB 0).outstanding = some ⟨0xB, 0⟩ ∧
    decode ⟨0xB, 0⟩ = none ∧ (withBeat digitsState 0xB 0).schedule = [] ∧
    ({ withBeat digitsState 0xB 0 with schedule := [.core] } : State).schedule = .core :: [] := by decide
theorem witness_BeatIsIssuedExactlyWhenReady : cmdReady digitsState = true ∧ cmdReady (withBeat digitsState 0 0) = false ∧
    cmdReady { digitsState with rstN := false } = false ∧
    ({ digitsState with schedule := [.present ⟨0, 0⟩] } : State).schedule = .present ⟨0, 0⟩ :: [] := by decide
theorem witness_EveryIssuedCommandGetsOneResponse :
    cmdReady { State.reset with schedule := [.present ⟨0xF, 0⟩, .core] } = true ∧
    ({ State.reset with schedule := [.present ⟨0xF, 0⟩, .core] } : State).schedule = .present ⟨0xF, 0⟩ :: .core :: [] := by
  decide

/-- A length of 0 or 1 is within `HBUF_MAX`, whatever it is (R5). -/
theorem one_le_hbufMax : 1 ≤ Config.hbufMax := Nat.le_add_left 1 _

/-- `HBUF_MAX` is at most `2^32` (R5). -/
theorem hbufMax_le : Config.hbufMax ≤ 2 ^ 32 := Config.hbufMaxPred.isLt

/-- The port invariant of a state that answered a command, with moves to come. -/
theorem answered_portInv (moves : List Move) : PortInv { State.reset with rspValid := true, schedule := moves } :=
  ⟨Memory.reset_wf, Nat.zero_le _, Nat.zero_le _, by simp [State.reset], by simp [State.reset], by simp [State.reset],
    by simp [State.reset]⟩

theorem witness_ResponseIsHeldUntilTheNextIssue : ∀ moves ∈ ([[], [.core], [.present ⟨0, 0⟩], [.driveReset false]] : List (List Move)),
    PortInv { State.reset with rspValid := true, schedule := moves } ∧
    ∃ t, step { State.reset with rspValid := true, schedule := moves } = .next t := by
  intro moves hm
  refine ⟨answered_portInv moves, ?_⟩
  fin_cases hm <;> exact ⟨_, rfl⟩

theorem witness_HostWritesReachOnlyTheirTarget :
    (∃ s : State, s.schedule = .writeByte 0xFFFFFFFF 1 :: [] ∧ s.outstanding = none) ∧
    (∃ s : State, s.schedule = .writeByte 0 1 :: [] ∧ s.outstanding.isSome = true) ∧
    (∃ s : State, s.schedule = .setLength 1 :: [] ∧ (1 : BitVec 33).toNat ≤ Config.hbufMax ∧ s.outstanding.isSome = true) ∧
    (∃ s : State, s.schedule = .setLength 1 :: [] ∧ (1 : BitVec 33).toNat ≤ Config.hbufMax ∧ s.outstanding = none) ∧
    (∃ s : State, s.schedule = .setLength 0x100000001 :: [] ∧ Config.hbufMax < (0x100000001 : BitVec 33).toNat) :=
  ⟨⟨{ State.reset with schedule := [.writeByte 0xFFFFFFFF 1] }, rfl, rfl⟩,
   ⟨{ withBeat State.reset 0 0 with schedule := [.writeByte 0 1] }, rfl, rfl⟩,
   ⟨{ withBeat State.reset 0 0 with schedule := [.setLength 1] }, rfl, one_le_hbufMax, rfl⟩,
   ⟨{ State.reset with schedule := [.setLength 1] }, rfl, one_le_hbufMax, rfl⟩,
   ⟨{ State.reset with schedule := [.setLength 0x100000001] }, rfl, Nat.lt_of_le_of_lt hbufMax_le (by decide)⟩⟩

/-- Writes at both ends of the range of UPDATER 3 6, at the same index twice, and above the length. -/
theorem witness_HostWriteBeforeIssueIsSeenByTheUpdater : ∃ s : State, cmdReady s = true ∧ s.configured = true ∧
    decode ⟨7, 0x0000000600000003⟩ = some (.updater 3 6) ∧
    (3 : BitVec 32).toNat + (6 : BitVec 32).toNat ≤ s.hbufLen.toNat ∧
    s.schedule = ([(3, 1), (8, 0xAA), (8, 0xBB), (9, 2)] : List (BitVec 32 × Byte)).map (fun w => .writeByte w.1 w.2) ++
      .present ⟨7, 0x0000000600000003⟩ :: .core :: [] :=
  ⟨{ crc32State with schedule := [.writeByte 3 1, .writeByte 8 0xAA, .writeByte 8 0xBB, .writeByte 9 2,
    .present ⟨7, 0x0000000600000003⟩, .core] }, by decide⟩
theorem witness_HardwareResetLeavesTheResetValues :
    (∃ s : State, s.rstN = false ∧ s.schedule = .present ⟨0, 0⟩ :: []) ∧
    (∃ s : State, s.configured = true ∧ s.schedule = .driveReset false :: .driveReset true :: []) ∧
    (∃ s : State, s.rstN = false ∧ s.schedule = .driveReset true :: []) :=
  ⟨⟨{ State.reset with rstN := false, schedule := [.present ⟨0, 0⟩] }, rfl, rfl⟩,
   ⟨{ crc32State with schedule := [.driveReset false, .driveReset true] }, rfl, rfl⟩,
   ⟨{ State.reset with rstN := false, schedule := [.driveReset true] }, rfl, rfl⟩⟩
theorem witness_HardwareResetAbandonsTheCommandInFlight : ∃ s : State, s.outstanding = some ⟨0x3106, 0⟩ ∧
    s.schedule = .driveReset false :: .core :: [] :=
  ⟨{ withBeat crc32State 0x3106 0 with schedule := [.driveReset false, .core] }, rfl, rfl⟩
theorem witness_NoCommandWritesMemory : ∃ t, exec (.updater 0 9) crc32State = .next t := ⟨_, rfl⟩
theorem witness_command_words : (0x0 : CmdWord).extractLsb' 0 4 = 0x0#4 ∧ (0x1 : CmdWord).extractLsb' 0 4 = 0x1#4 ∧
    (0x2 : CmdWord).extractLsb' 0 4 = 0x2#4 ∧ (0x3 : CmdWord).extractLsb' 0 4 = 0x3#4 ∧
    (0x01A00004 : CmdWord).extractLsb' 0 4 = 0x4#4 ∧ (0x5 : CmdWord).extractLsb' 0 4 = 0x5#4 ∧
    (0x3106 : CmdWord).extractLsb' 0 4 = 0x6#4 ∧ (0x7 : CmdWord).extractLsb' 0 4 = 0x7#4 ∧
    (0x8 : CmdWord).extractLsb' 0 4 = 0x8#4 ∧ (0x109 : CmdWord).extractLsb' 0 4 = 0x9#4 ∧
    (0x80000A : CmdWord).extractLsb' 0 4 = 0xA#4 := by decide
/-- The widths of ConfigLatchesBuildsAndResets and ReflectReturnsTheReflectedWord at their ends: no width falls under both clauses. -/
theorem witness_widths : (1 ≤ (1 : BitVec 7).toNat ∧ (1 : BitVec 7).toNat ≤ 64) ∧
    (1 ≤ (64 : BitVec 7).toNat ∧ (64 : BitVec 7).toNat ≤ 64) ∧ (0 : BitVec 7).toNat = 0 ∧ 65 ≤ (65 : BitVec 7).toNat ∧
    65 ≤ (127 : BitVec 7).toNat := by decide
/-- `configured` of the commands that need it, both ways (RESET, UPDATE, UPDATER, GETVALUE, TBLRD). -/
theorem witness_configured : crc32State.configured = true ∧ digitsState.configured = false := by decide
theorem witness_UpdaterConsumesItsRange :
    (crc32State.configured = true ∧ (9 : BitVec 32).toNat + (0 : BitVec 32).toNat ≤ crc32State.lenAtIssue.toNat ∧
      (0 : BitVec 32).toNat + (9 : BitVec 32).toNat ≤ crc32State.lenAtIssue.toNat ∧ crc32State.lenChanged = false ∧
      (0 : BitVec 32).toNat + 8 ∉ crc32State.touched) ∧
    crc32State.lenAtIssue.toNat < (10 : BitVec 32).toNat + (0 : BitVec 32).toNat ∧
    crc32State.lenAtIssue.toNat < (1 : BitVec 32).toNat + (0xFFFFFFFF : BitVec 32).toNat := by decide

theorem witness_StatusFollowsThePriorityOrder :
    ∃ t, (withBeat digitsState 7 0x0000000500000005).outstanding = some ⟨7, 0x0000000500000005⟩ ∧
      coreTurn exec (withBeat digitsState 7 0x0000000500000005) = .next t := ⟨_, rfl, rfl⟩
theorem witness_ErrorsChangeNothingButTheResponse :
    ∃ t, (withBeat crc32State 0x007F0004 0).outstanding = some ⟨0x007F0004, 0⟩ ∧
      coreTurn exec (withBeat crc32State 0x007F0004 0) = .next t ∧ t.rspStatus ≠ 0 := ⟨_, rfl, rfl, by decide⟩
theorem witness_ResponseDataIsTheResultOrZero :
    (∃ t, (withBeat crc32State 0x109 0).outstanding = some ⟨0x109, 0⟩ ∧ coreTurn exec (withBeat crc32State 0x109 0) = .next t ∧
      t.rspStatus = 0) ∧
    (∃ t, (withBeat crc32State 0xD 0).outstanding = some ⟨0xD, 0⟩ ∧ coreTurn exec (withBeat crc32State 0xD 0) = .next t ∧
      t.rspStatus ≠ 0) := ⟨⟨_, rfl, rfl, by decide⟩, ⟨_, rfl, rfl, by decide⟩⟩
theorem witness_OnlyConfigSetsConfiguredOnlyHardwareResetClearsIt :
    (∃ t, step { crc32State with schedule := [.driveReset false] } = .next t ∧ crc32State.configured = true) ∧
    (∃ t, step (withBeat State.reset 0x01A00004 0) = .next t ∧ State.reset.configured = false ∧ t.configured = true) :=
  ⟨⟨_, rfl, rfl⟩, ⟨_, rfl, rfl, rfl⟩⟩

/-- Widths, polynomials and register values at the ends of their ranges (reflection, table, `StepByte` and `Finalize` laws). -/
theorem witness_fields : (0x1 : Word).toNat < 2 ^ 1 ∧ (0xFFFFFFFFFFFFFFFF : Word).toNat < 2 ^ 64 ∧
    (0x8000000000000000 : Word) &&& mask (64 - 1) = 0 ∧ (0xFFFFFFFFFFFFFFFF : Word) &&& mask (64 - 64) = 0 ∧
    (1 ≤ 1 ∧ 1 ≤ 64) ∧ (1 ≤ 64 ∧ 64 ≤ 64) := by decide
theorem witness_ReflectionMovesEachBit : (63 < 64) ∧ (1 ≤ 1 ∧ 1 ≤ 64 ∧ 0 < 1) ∧ (1 ≤ 64 ∧ 64 ≤ 64 ∧ 63 < 64) ∧
    (1 ≤ 63 ∧ 63 ≤ 64 ∧ 63 ≤ 63) := by decide
theorem witness_AnyMixOfUpdatesEqualsOneUpdater : crc32State.configured = true ∧ QuietHost crc32State ∧
    ([.update 0x31, .updater 1 2, .updater 3 0, .updater 3 6] : List Instr).all (isInput crc32State) = true ∧
    rangeLegal 0 9 crc32State.lenAtIssue = true ∧
    ([.update 0x31, .updater 1 2, .updater 3 0, .updater 3 6] : List Instr).flatMap (inputBytes crc32State) =
      inputBytes crc32State (.updater 0 9) := by
  refine ⟨rfl, ⟨rfl, rfl⟩, ?_⟩
  decide
theorem witness_UpdaterReadsOnlyItsOwnRange : ∀ j : Nat, j < (1 : BitVec 32).toNat →
    hbufRead { crc32State with hbuf := [(2, 0x33), (7, 0xEE)] } ((2 : BitVec 32).toNat + j) =
      hbufRead crc32State ((2 : BitVec 32).toNat + j) := by decide
theorem witness_ResetRestoresTheCrcOfTheLastConfig :
    (([.update 1, .config 0 true true, .setinit 5, .config 65 false true, .updater 0 9, .config 127 true false] :
      List Instr).all fun i => !isSuccessfulConfig i) = true := by decide
theorem witness_StagingWritesNeverDisturbASession :
    (([.update 1, .setpoly 0x8005, .config 65 true true, .setxorout 7, .getvalue] :
      List Instr).all fun i => !isSuccessfulConfig i) = true := by decide

/-- R37 holds of a configured state on the unreflected path, and of one on the reflected path. -/
theorem configured_registerInv : RegisterInv (configuredState 8 7 0xFF 0 false false) ∧
    RegisterInv (configuredState 5 5 0x1F 0x1F true true) := by
  refine ⟨⟨?_, ?_, ?_, ?_, fun _ => rfl, ?_, ?_, ?_, ?_⟩, ⟨?_, ?_, ?_, ?_, fun _ => rfl, ?_, ?_, ?_, ?_⟩⟩ <;> decide +kernel
theorem witness_RegisterInvariantIsKeptByEveryStep :
    ∃ t, RegisterInv (configuredState 8 7 0xFF 0 false false) ∧ step (configuredState 8 7 0xFF 0 false false) = .next t :=
  ⟨_, configured_registerInv.1, rfl⟩
theorem witness_FinalizationLaws : (configuredState 5 5 0x1F 0x1F true true).configured = true ∧
    RegisterInv (configuredState 5 5 0x1F 0x1F true true) ∧
    (∃ t u, exec .getvalue (configuredState 5 5 0x1F 0x1F true true) = .next t ∧ exec .getvalue t = .next u) :=
  ⟨rfl, configured_registerInv.2, ⟨_, _, rfl, rfl⟩⟩
theorem witness_PortInvariantIsKeptByEveryStep :
    ∃ t, PortInv { State.reset with rspValid := true, schedule := [.present ⟨0, 0⟩] } ∧
      step { State.reset with rspValid := true, schedule := [.present ⟨0, 0⟩] } = .next t :=
  ⟨_, answered_portInv _, rfl⟩
/-- Both alignments right after CONFIG, whose register is `init` (R161). -/
theorem witness_EveryStepTracksTheBitByBitReference :
    (∃ t, RegisterInv (configuredState 8 7 0xFF 0 false false) ∧
      TracksReference 0xFF (configuredState 8 7 0xFF 0 false false) ∧
      step (configuredState 8 7 0xFF 0 false false) = .next t) ∧
    (∃ t, RegisterInv (configuredState 5 5 0x1F 0x1F true true) ∧
      TracksReference 0x1F (configuredState 5 5 0x1F 0x1F true true) ∧
      step (configuredState 5 5 0x1F 0x1F true true) = .next t) :=
  ⟨⟨_, configured_registerInv.1, fun _ => by decide, rfl⟩, ⟨_, configured_registerInv.2, fun _ => by decide, rfl⟩⟩
theorem witness_UnspecifiedResetValuesCannotBeObserved :
    Indistinguishable State.reset { State.reset with crc := 5, cfgWidth := 99, cfgRefIn := true } :=
  .inr ⟨rfl, rfl, rfl⟩

end Sys2Proof.Tests
end

/-! SUPPORT. The outcomes of a command, of the core's turn and of a move: which of them answer a next state (R10, R200), and
the one move that does not (R52, log entry 7). -/

namespace Sys2Proof.Machine

/-- No command faults or is refused: an error is a response (R200). -/
theorem exec_answers (i : Instr) (s : State) : ∃ t, exec i s = .next t :=
  let ⟨t, ht, _⟩ := exec_cases i s
  ⟨t, ht⟩

/-- The core's turn never stops the machine, whatever word is outstanding. -/
theorem coreTurn_answers (s : State) : ∃ t, coreTurn exec s = .next t := by
  rcases coreTurn_cases s with ⟨_, idle⟩ | ⟨_, _, _, illegal⟩ | ⟨_, i, _, _, runs⟩
  · exact ⟨_, idle⟩
  · exact ⟨_, illegal⟩
  · exact runs ▸ exec_answers i s

/-- A length within `HBUF_MAX` is set (R52). -/
theorem takeMove_setLength_of_le (run : Instr → State → Host.Outcome State Fault Refusal) {n : BitVec 33} (s : State)
    (h : n.toNat ≤ Config.hbufMax) : takeMove run (.setLength n) s = .next (hostSetLength n s) := by
  simp [takeMove, h]

/-- A length above `HBUF_MAX` is a fault (log entry 7). -/
theorem takeMove_setLength_of_lt (run : Instr → State → Host.Outcome State Fault Refusal) {n : BitVec 33} (s : State)
    (h : Config.hbufMax < n.toNat) : takeMove run (.setLength n) s = .fault .hostLengthAboveMax := by
  simp [takeMove, h]

/-- The only move that stops the machine is a length above `HBUF_MAX`. -/
theorem takeMove_answers_or_faults (m : Move) (s : State) :
    (∃ t, takeMove exec m s = .next t) ∨
      (takeMove exec m s = .fault .hostLengthAboveMax ∧ ∃ n, m = .setLength n ∧ Config.hbufMax < n.toNat) := by
  cases m with
  | core => exact .inl (coreTurn_answers s)
  | present b => exact .inl ⟨_, rfl⟩
  | writeByte i v => exact .inl ⟨_, rfl⟩
  | setLength n =>
    rcases Nat.lt_or_ge Config.hbufMax n.toNat with above | within
    · exact .inr ⟨takeMove_setLength_of_lt exec s above, n, rfl, above⟩
    · exact .inl ⟨_, takeMove_setLength_of_le exec s within⟩
  | driveReset level => exact .inl ⟨_, rfl⟩

/-- Settles O20: a step is the core's turn or one move, and of these only the excluded length stops. -/
theorem onlyAnExcludedLengthStopsTheMachine : Obligations.OnlyAnExcludedLengthStopsTheMachine := by
  intro s
  cases hs : s.schedule with
  | nil => exact .inl (step_of_no_move hs ▸ coreTurn_answers s)
  | cons m rest =>
    rw [step_of_move hs]
    rcases takeMove_answers_or_faults m { s with schedule := rest } with answers | ⟨faults, n, rfl, above⟩
    · exact .inl answers
    · exact .inr ⟨faults, n, rest, rfl, above⟩

end Sys2Proof.Machine

/-! SUPPORT. The alignment of the register and of the table entries (R160, items 4 and 5 of R37): the bits of a word that are
0 on either path, and that building the table and feeding bytes keep them 0. -/

namespace Sys2Proof.Machine

/-- The word lies where the engine of width `w` keeps its values (R160): within the low `w` bits on the reflected path,
within the high `w` bits on the unreflected one. -/
def Aligned (ri : Bool) (w : Nat) (x : Word) : Prop :=
  ∀ k, (if ri then w ≤ k else k < 64 - w) → x.getLsbD k = false

/-- Item 4 of R37. -/
theorem aligned_true_iff {w : Nat} {x : Word} : Aligned true w x ↔ x.toNat < 2 ^ w := by
  constructor
  · exact fun h => Nat.lt_pow_two_of_testBit _ fun k hk => h k hk
  · exact fun h k hk => Nat.testBit_lt_two_pow (h.trans_le (Nat.pow_le_pow_right (by decide) hk))

/-- Item 5 of R37. -/
theorem aligned_false_iff {w : Nat} {x : Word} : Aligned false w x ↔ x &&& mask (64 - w) = 0 := by
  constructor
  · intro h
    refine BitVec.eq_of_getLsbD_eq fun k _ => ?_
    rw [BitVec.getLsbD_and, getLsbD_mask]
    refine Eq.trans ?_ BitVec.getLsbD_zero.symm
    by_cases hk : k < 64 - w
    · rw [h k hk, Bool.false_and]
    · rw [decide_eq_false hk, Bool.and_false, Bool.and_false]
  · intro h k hk
    have low : k < 64 - w := hk
    have bit : (x &&& mask (64 - w)).getLsbD k = false := h ▸ BitVec.getLsbD_zero
    rwa [BitVec.getLsbD_and, getLsbD_mask, decide_eq_true low, decide_eq_true (show k < 64 by omega), Bool.and_true,
      Bool.and_true] at bit

/-- A wider engine has room for the values of a narrower one. -/
theorem Aligned.mono {ri : Bool} {w w' : Nat} {x : Word} (h : Aligned ri w x) (hw : w ≤ w') : Aligned ri w' x := by
  intro k hk
  apply h k
  cases ri <;> simp at hk ⊢ <;> omega

theorem Aligned.xor {ri : Bool} {w : Nat} {x y : Word} (hx : Aligned ri w x) (hy : Aligned ri w y) :
    Aligned ri w (x ^^^ y) := by
  intro k hk
  simp [hx k hk, hy k hk]

/-- A right shift moves the reflected path's values towards bit 0. -/
theorem Aligned.shiftRight {w n : Nat} {x : Word} (h : Aligned true (w + n) x) : Aligned true w (x >>> n) := by
  intro k hk
  rw [BitVec.getLsbD_ushiftRight]
  exact h _ (by simp at hk ⊢; omega)

/-- A left shift moves the unreflected path's values towards bit 63. -/
theorem Aligned.shiftLeft {w n : Nat} {x : Word} (h : Aligned false (w + n) x) : Aligned false w (x <<< n) := by
  intro k hk
  rw [BitVec.getLsbD_shiftLeft]
  by_cases hkn : k < n
  · simp [hkn]
  · rw [h (k - n) (by simp at hk ⊢; omega), Bool.and_false]

/-- Reflection within the width gives a value of the width (R102). -/
theorem aligned_reflect (x : Word) (w : Nat) : Aligned true w (reflect x w) := by
  intro k hk
  rw [reflect, getLsbD_gatherBits, decide_eq_false (Nat.not_lt.mpr hk), Bool.false_and, Bool.false_and]

/-- A word shifted to the top of the register. -/
theorem aligned_shiftLeft (x : Word) (w : Nat) : Aligned false w (x <<< (64 - w)) := by
  intro k hk
  rw [BitVec.getLsbD_shiftLeft, decide_eq_true (show k < 64 - w from hk), Bool.not_true, Bool.and_false, Bool.false_and]

/-- `InitialCrc` (R161) on either path. -/
theorem initialCrc_aligned (w : Nat) (init : Word) (ri : Bool) : Aligned ri w (initialCrc w init ri) := by
  cases ri
  · exact aligned_shiftLeft init w
  · exact aligned_reflect init w

/-- One iteration of R121 takes one bit off the width its operand needs. -/
theorem reflectedStep_aligned {w n : Nat} {rp c : Word} (hp : Aligned true w rp) (hc : Aligned true (w + (n + 1)) c) :
    Aligned true (w + n) (reflectedStep rp c) := by
  unfold reflectedStep
  split
  · exact (hc.shiftRight (n := 1)).xor (hp.mono (Nat.le_add_right w n))
  · exact hc.shiftRight (n := 1)

/-- One iteration of R122 takes one bit off the width its operand needs. -/
theorem alignedStep_aligned {w n : Nat} {ap c : Word} (hp : Aligned false w ap) (hc : Aligned false (w + (n + 1)) c) :
    Aligned false (w + n) (alignedStep ap c) := by
  unfold alignedStep
  split
  · exact (hc.shiftLeft (n := 1)).xor (hp.mono (Nat.le_add_right w n))
  · exact hc.shiftLeft (n := 1)

/-- Iterating a step that takes one bit off the needed width: `n` iterations take off `n`. -/
theorem iterate_aligned {ri : Bool} {w : Nat} {f : Word → Word}
    (hf : ∀ n c, Aligned ri (w + (n + 1)) c → Aligned ri (w + n) (f c)) :
    ∀ n c, Aligned ri (w + n) c → Aligned ri w (f^[n] c)
  | 0, _, hc => hc
  | n + 1, c, hc => iterate_aligned hf n (f c) (hf n c hc)

/-- Every entry of a built table is aligned: the 8 iterations clear what the 8-bit index set outside the width. -/
theorem builtEntry_aligned (w : Nat) (p : Word) (ri : Bool) (i : BitVec 8) : Aligned ri w (builtEntry w p ri i.toNat) := by
  cases ri with
  | false =>
    have start : Aligned false 8 (BitVec.ofNat 64 i.toNat <<< 56) := aligned_shiftLeft _ 8
    exact iterate_aligned (fun _ _ => alignedStep_aligned (aligned_shiftLeft p w)) 8 _ (start.mono (Nat.le_add_left 8 w))
  | true =>
    have start : Aligned true 8 (BitVec.ofNat 64 i.toNat) :=
      aligned_true_iff.mpr ((Nat.mod_le _ _).trans_lt i.isLt)
    exact iterate_aligned (fun _ _ => reflectedStep_aligned (aligned_reflect p w)) 8 _ (start.mono (Nat.le_add_left 8 w))

/-- `StepByte` (R162) keeps the register aligned when the table is. -/
theorem stepByte_aligned {t : Vector Word 256} {ri : Bool} {w : Nat} {c : Word}
    (ht : ∀ i, Aligned ri w (tableEntryAt t i)) (hc : Aligned ri w c) (b : Byte) : Aligned ri w (stepByte t ri c b) := by
  cases ri with
  | false => exact (hc.mono (Nat.le_add_right w 8)).shiftLeft.xor (ht _)
  | true => exact (hc.mono (Nat.le_add_right w 8)).shiftRight.xor (ht _)

theorem stepBytes_aligned {t : Vector Word 256} {ri : Bool} {w : Nat} (ht : ∀ i, Aligned ri w (tableEntryAt t i))
    (bytes : List Byte) {c : Word} (hc : Aligned ri w c) : Aligned ri w (stepBytes t ri c bytes) := by
  induction bytes generalizing c with
  | nil => exact hc
  | cons b rest ih => exact ih (stepByte_aligned ht hc b)

end Sys2Proof.Machine

/-! SUPPORT. The items of R37: how they are established, and that every command and every move keeps them. -/

namespace Sys2Proof.Machine

/-- An unconfigured state has the items of R37, which speak of `CONFIGURED = 1`. -/
theorem registerInv_of_not_configured {s : State} (h : s.configured = false) : RegisterInv s := by
  constructor <;> simp [h]

/-- Items 1 to 3 and an aligned `CRC` are enough: the rest of items 4 and 5 is about a built table. -/
theorem registerInv_of_crc_aligned {s : State} (width : 1 ≤ s.cfgWidth.toNat ∧ s.cfgWidth.toNat ≤ 64)
    (poly : s.cfgPoly.toNat < 2 ^ s.cfgWidth.toNat) (init : s.cfgInit.toNat < 2 ^ s.cfgWidth.toNat)
    (xorOut : s.cfgXorOut.toNat < 2 ^ s.cfgWidth.toNat)
    (table : s.table = buildTable s.cfgWidth.toNat s.cfgPoly s.cfgRefIn)
    (crc : Aligned s.cfgRefIn s.cfgWidth.toNat s.crc) : RegisterInv s := by
  have entries : ∀ i, Aligned s.cfgRefIn s.cfgWidth.toNat (tableEntryAt s.table i) := by
    intro i
    rw [table, tableEntryAt_buildTable]
    exact builtEntry_aligned _ _ _ i
  exact {
    width_legal := fun _ => width
    poly_fits := fun _ => poly
    init_fits := fun _ => init
    xorOut_fits := fun _ => xorOut
    table_built := fun _ => table
    crc_low := fun _ hri => aligned_true_iff.mp (hri ▸ crc)
    table_low := fun _ hri i => aligned_true_iff.mp (hri ▸ entries i)
    crc_high := fun _ hri => aligned_false_iff.mp (hri ▸ crc)
    table_high := fun _ hri i => aligned_false_iff.mp (hri ▸ entries i) }

/-- The register of a configured state is aligned. -/
theorem RegisterInv.crc_aligned {s : State} (h : RegisterInv s) (hc : s.configured = true) :
    Aligned s.cfgRefIn s.cfgWidth.toNat s.crc := by
  cases hri : s.cfgRefIn with
  | false => exact aligned_false_iff.mpr (h.crc_high hc hri)
  | true => exact aligned_true_iff.mpr (h.crc_low hc hri)

/-- The table of a configured state is aligned. -/
theorem RegisterInv.table_aligned {s : State} (h : RegisterInv s) (hc : s.configured = true) (i : BitVec 8) :
    Aligned s.cfgRefIn s.cfgWidth.toNat (tableEntryAt s.table i) := by
  rw [h.table_built hc, tableEntryAt_buildTable]
  exact builtEntry_aligned _ _ _ i

/-- The items speak of nothing but the parameter set, `TABLE`, `CRC` and `CONFIGURED`. -/
theorem RegisterInv.of_same_parameters {s t : State} (h : RegisterInv s) (parameters : withParametersOf s t = t)
    (configured : t.configured = s.configured) : RegisterInv t := by
  rw [← parameters]
  constructor <;> simp only [withParametersOf, configured]
  exacts [h.width_legal, h.poly_fits, h.init_fits, h.xorOut_fits, h.table_built, h.crc_low, h.table_low, h.crc_high,
    h.table_high]

/-- A new value of the register, aligned, keeps the items. -/
theorem RegisterInv.with_crc {s : State} (h : RegisterInv s) (hc : s.configured = true) {c : Word}
    (aligned : Aligned s.cfgRefIn s.cfgWidth.toNat c) : RegisterInv { s with crc := c } :=
  registerInv_of_crc_aligned (h.width_legal hc) (h.poly_fits hc) (h.init_fits hc) (h.xorOut_fits hc) (h.table_built hc)
    aligned

/-- A legal width is 1 to 64 (R204). -/
theorem widthLegal_iff {w : BitVec 7} : widthLegal w = true ↔ 1 ≤ w.toNat ∧ w.toNat ≤ 64 := by
  simp [widthLegal]

/-- A successful CONFIG establishes the items (R144), whatever held before. -/
theorem registerInv_latch {w : BitVec 7} (hw : widthLegal w = true) (ri ro : Bool) (s : State) :
    RegisterInv (latch w ri ro s) :=
  registerInv_of_crc_aligned (widthLegal_iff.mp hw) (and_mask_lt _ _) (and_mask_lt _ _) (and_mask_lt _ _) rfl
    (initialCrc_aligned _ _ _)

/-- Every command keeps the items. -/
theorem exec_registerInv {i : Instr} {s t : State} (h : RegisterInv s) (ht : exec i s = .next t) : RegisterInv t := by
  obtain ⟨t', ht', what⟩ := exec_cases i s
  obtain rfl : t' = t := by simpa [ht'] using ht
  rcases what with ⟨_, rfl⟩ | ⟨_, rfl⟩ | ⟨_, _, rfl⟩ | ⟨_, _, rfl⟩ | ⟨_, _, rfl⟩ | ⟨w, ri, ro, _, hw, rfl⟩ | ⟨_, hc, rfl⟩ |
    ⟨b, _, hc, rfl⟩ | ⟨o, l, _, hc, _, rfl⟩
  case inl | inr.inl | inr.inr.inl | inr.inr.inr.inl | inr.inr.inr.inr.inl => exact h.of_same_parameters rfl rfl
  · exact (registerInv_latch hw ri ro s).of_same_parameters rfl rfl
  · exact (h.with_crc hc (initialCrc_aligned _ _ _)).of_same_parameters rfl rfl
  · exact (h.with_crc hc (stepByte_aligned (h.table_aligned hc) (h.crc_aligned hc) b)).of_same_parameters rfl rfl
  · exact (h.with_crc hc (stepBytes_aligned (h.table_aligned hc) (consumedBytes s o.toNat l.toNat)
      (h.crc_aligned hc))).of_same_parameters rfl rfl

/-- Everything the core's turn can have done, seen from the state it answers. -/
theorem coreTurn_next {s t : State} (ht : coreTurn exec s = .next t) :
    t = s ∨ t = raise .illegalCommand s ∨
      ∃ b i, s.outstanding = some b ∧ decode b = some i ∧ exec i s = .next t := by
  rcases coreTurn_cases s with ⟨_, idle⟩ | ⟨_, _, _, illegal⟩ | ⟨b, i, ho, hd, runs⟩
  · exact .inl (Host.Outcome.next.inj (ht.symm.trans idle))
  · exact .inr (.inl (Host.Outcome.next.inj (ht.symm.trans illegal)))
  · exact .inr (.inr ⟨b, i, ho, hd, runs.symm.trans ht⟩)

/-- The core's turn keeps the items. -/
theorem coreTurn_registerInv {s t : State} (h : RegisterInv s) (ht : coreTurn exec s = .next t) : RegisterInv t := by
  rcases coreTurn_next ht with rfl | rfl | ⟨_, _, _, _, runs⟩
  · exact h
  · exact h.of_same_parameters rfl rfl
  · exact exec_registerInv h runs

/-- Everything a beat presented can do (R81). -/
theorem presentBeat_cases (b : Beat) (s : State) : presentBeat b s = issue b s ∨ presentBeat b s = s := by
  unfold presentBeat
  split
  · exact .inl rfl
  · exact .inr rfl

theorem presentBeat_configured (b : Beat) (s : State) : (presentBeat b s).configured = s.configured := by
  rcases presentBeat_cases b s with e | e <;> rw [e]
  exact issue_configured b s

/-- Driving `rst_n` to 1 when it is 1 changes nothing (log entry 11). -/
theorem driveRstN_of_held {level : Bool} {s : State} (h : (level && s.rstN) = true) : driveRstN level s = s :=
  if_pos h

/-- Any other drive of `rst_n` resets the core (R230). -/
theorem driveRstN_of_not_held {level : Bool} {s : State} (h : ¬(level && s.rstN) = true) :
    driveRstN level s = { resetCore s with rstN := level } :=
  if_neg h

/-- Settles O47: a successful CONFIG establishes the items, RESET, UPDATE and UPDATER keep the register aligned, hardware
reset leaves the core unconfigured, and no other move writes what the items speak of. -/
theorem registerInvariantIsKeptByEveryStep : Obligations.RegisterInvariantIsKeptByEveryStep := by
  intro s t h ht
  obtain ⟨r, ⟨rest, rfl⟩, what⟩ := step_cases ht
  have hr : RegisterInv { s with schedule := rest } := h.of_same_parameters rfl rfl
  rcases what with turn | ⟨b, rfl⟩ | ⟨i, v, rfl⟩ | ⟨n, _, rfl⟩ | ⟨level, rfl⟩
  · exact coreTurn_registerInv hr turn
  · rcases presentBeat_cases b { s with schedule := rest } with e | e <;> rw [e]
    · exact hr.of_same_parameters rfl rfl
    · exact hr
  · exact hr.of_same_parameters rfl rfl
  · exact hr.of_same_parameters rfl rfl
  · by_cases held : (level && s.rstN) = true
    · rw [driveRstN_of_held (s := { s with schedule := rest }) held]
      exact hr
    · rw [driveRstN_of_not_held (s := { s with schedule := rest }) held]
      exact registerInv_of_not_configured rfl

/-- Settles O48: hardware reset leaves `CONFIGURED = 0`. -/
theorem registerInvariantHoldsAtReset : Obligations.RegisterInvariantHoldsAtReset :=
  registerInv_of_not_configured rfl

/-- Settles O52: R230's values are those of `State.reset`, and an idle core out of reset is ready (R81). -/
theorem resetStateHasTheSpecifiedValues : Obligations.ResetStateHasTheSpecifiedValues :=
  ⟨rfl, rfl, rfl, rfl, rfl, rfl, rfl, rfl⟩

end Sys2Proof.Machine

/-! SUPPORT. What each move does to `CONFIGURED` (R29). -/

namespace Sys2Proof.Machine

/-- The outstanding command is a CONFIG that will succeed (R144). -/
def SuccessfulConfigOutstanding (s : State) : Prop :=
  ∃ b w ri ro, s.outstanding = some b ∧ decode b = some (.config w ri ro) ∧ 1 ≤ w.toNat ∧ w.toNat ≤ 64

/-- A command leaves `CONFIGURED` alone or is a CONFIG with a legal width, which sets it. -/
theorem exec_configured {i : Instr} {s t : State} (ht : exec i s = .next t) :
    t.configured = s.configured ∨ (t.configured = true ∧ ∃ w ri ro, i = .config w ri ro ∧ widthLegal w = true) := by
  obtain ⟨t', ht', what⟩ := exec_cases i s
  obtain rfl : t' = t := by simpa [ht'] using ht
  rcases what with ⟨_, rfl⟩ | ⟨_, rfl⟩ | ⟨_, _, rfl⟩ | ⟨_, _, rfl⟩ | ⟨_, _, rfl⟩ | ⟨w, ri, ro, hi, hw, rfl⟩ | ⟨_, _, rfl⟩ |
    ⟨_, _, _, rfl⟩ | ⟨_, _, _, _, _, rfl⟩
  case inr.inr.inr.inr.inr.inl => exact .inr ⟨rfl, w, ri, ro, hi, hw⟩
  all_goals exact .inl rfl

/-- The core's turn leaves `CONFIGURED` alone or completes a successful CONFIG. -/
theorem coreTurn_configured {s t : State} (ht : coreTurn exec s = .next t) :
    t.configured = s.configured ∨ (t.configured = true ∧ SuccessfulConfigOutstanding s) := by
  rcases coreTurn_next ht with rfl | rfl | ⟨b, i, ho, hd, runs⟩
  · exact .inl rfl
  · exact .inl rfl
  · rcases exec_configured runs with same | ⟨set, w, ri, ro, rfl, hw⟩
    · exact .inl same
    · exact .inr ⟨set, b, w, ri, ro, ho, hd, widthLegal_iff.mp hw⟩

/-- A move leaves `CONFIGURED` alone, completes a successful CONFIG, or drives `rst_n` and clears it. -/
theorem takeMove_configured {m : Move} {s t : State} (ht : takeMove exec m s = .next t) :
    t.configured = s.configured ∨ (t.configured = true ∧ SuccessfulConfigOutstanding s) ∨
      (t.configured = false ∧ ∃ level, m = .driveReset level) := by
  cases m with
  | core => exact (coreTurn_configured ht).imp_right .inl
  | present b =>
    obtain rfl : presentBeat b s = t := by simpa [takeMove] using ht
    exact .inl (presentBeat_configured b s)
  | writeByte i v =>
    obtain rfl : hostWriteByte i v s = t := by simpa [takeMove] using ht
    exact .inl rfl
  | setLength n =>
    obtain ⟨_, rfl⟩ : n.toNat ≤ Config.hbufMax ∧ hostSetLength n s = t := by
      rcases Nat.lt_or_ge Config.hbufMax n.toNat with above | within
      · simp [takeMove_setLength_of_lt exec s above] at ht
      · exact ⟨within, by simpa [takeMove_setLength_of_le exec s within] using ht⟩
    exact .inl rfl
  | driveReset level =>
    obtain rfl : driveRstN level s = t := by simpa [takeMove] using ht
    by_cases held : (level && s.rstN) = true
    · exact .inl (congrArg State.configured (driveRstN_of_held held))
    · exact .inr (.inr ⟨congrArg State.configured (driveRstN_of_not_held held), level, rfl⟩)

/-- The same of a step, the move being the schedule's first. -/
theorem step_configured {s t : State} (ht : step s = .next t) :
    t.configured = s.configured ∨ (t.configured = true ∧ SuccessfulConfigOutstanding s) ∨
      (t.configured = false ∧ ∃ level rest, s.schedule = .driveReset level :: rest) := by
  cases hs : s.schedule with
  | nil => exact (coreTurn_configured (step_of_no_move hs ▸ ht)).imp_right .inl
  | cons m rest =>
    rw [step_of_move hs] at ht
    rcases takeMove_configured ht with same | config | ⟨cleared, level, rfl⟩
    · exact .inl same
    · exact .inr (.inl config)
    · exact .inr (.inr ⟨cleared, level, rest, rfl⟩)

/-- Settles O33: a step that changes `CONFIGURED` completes a successful CONFIG or drives `rst_n`. -/
theorem onlyConfigSetsConfiguredOnlyHardwareResetClearsIt :
    Obligations.OnlyConfigSetsConfiguredOnlyHardwareResetClearsIt := by
  intro s t ht
  rcases step_configured ht with same | ⟨set, config⟩ | ⟨cleared, drive⟩
  · exact ⟨fun hs => .inl (same.trans hs), fun hs htc => by simp [same, hs] at htc⟩
  · exact ⟨fun _ => .inl set, fun _ _ => config⟩
  · exact ⟨fun _ => .inr drive, fun _ htc => by simp [cleared] at htc⟩

end Sys2Proof.Machine

/-! SUPPORT. Noninterference of the unspecified reset values (R29 to R31, R230): a simulation between states that differ in
nothing but the parameter set, `TABLE` and `CRC`, one lemma per kind of move, then runs by induction. -/

namespace Sys2Proof.Machine

/-- What agreement says, outcome by outcome. -/
theorem outcomesAgree_cases {R : State → State → Prop} {o o' : Host.Outcome State Fault Refusal}
    (h : OutcomesAgree R o o') :
    (∃ a b, o = .next a ∧ o' = .next b ∧ R a b) ∨ (∃ f, o = .fault f ∧ o' = .fault f) ∨
      (∃ r, o = .refused r ∧ o' = .refused r) := by
  cases o <;> cases o'
  case next.next a b => exact .inl ⟨a, b, rfl, rfl, h⟩
  case fault.fault f f' => exact .inr (.inl ⟨f, rfl, congrArg _ (Eq.symm h)⟩)
  case refused.refused r r' => exact .inr (.inr ⟨r, rfl, congrArg _ (Eq.symm h)⟩)
  all_goals exact h.elim

theorem outcomesAgree_refl {R : State → State → Prop} (hR : ∀ a, R a a) (o : Host.Outcome State Fault Refusal) :
    OutcomesAgree R o o := by
  cases o with
  | next a => exact hR a
  | fault f => exact rfl
  | refused r => exact rfl

theorem OutcomesAgree.mono {R R' : State → State → Prop} (hR : ∀ a b, R a b → R' a b)
    {o o' : Host.Outcome State Fault Refusal} (h : OutcomesAgree R o o') : OutcomesAgree R' o o' := by
  rcases outcomesAgree_cases h with ⟨a, b, rfl, rfl, hab⟩ | ⟨f, rfl, rfl⟩ | ⟨r, rfl, rfl⟩
  · exact hR a b hab
  · exact rfl
  · exact rfl

theorem indistinguishable_refl (s : State) : Indistinguishable s s := .inl rfl

/-- An unconfigured state and the same with any other parameter set, table and register. -/
theorem indistinguishable_withParametersOf {t : State} (h : t.configured = false) (p : State) :
    Indistinguishable (withParametersOf p t) t := .inr ⟨h, h, rfl⟩

theorem whenConfigured_of_not_configured {s : State} (h : s.configured = false) (r : State) :
    whenConfigured s r = raise .notConfigured s := by
  rw [whenConfigured, h, if_neg Bool.false_ne_true]

/-- A command that reads `CONFIGURED` looks at nothing else when it is 0 (R203). -/
theorem exec_of_not_configured {i : Instr} {s : State} (needs : needsConfiguration i = true)
    (h : s.configured = false) : exec i s = .next (raise .notConfigured s) := by
  cases i
  case reset | update | updater | getvalue | tblrd => exact congrArg _ (whenConfigured_of_not_configured h _)
  all_goals cases needs

/-- No command tells unconfigured states apart: one that reads `CONFIGURED` raises `NotConfigured` in both, a CONFIG overwrites
all that differs, and the others neither read nor write it. -/
theorem exec_agrees (i : Instr) {t : State} (h : t.configured = false) (p : State) :
    OutcomesAgree Indistinguishable (exec i (withParametersOf p t)) (exec i t) := by
  cases needs : needsConfiguration i with
  | true =>
    rw [exec_of_not_configured needs h, exec_of_not_configured (s := withParametersOf p t) needs h]
    exact indistinguishable_withParametersOf (t := raise .notConfigured t) h p
  | false =>
    cases i
    case nop => exact indistinguishable_withParametersOf (t := respond statusOk 0 t) h p
    case setpoly v => exact indistinguishable_withParametersOf (t := respond statusOk 0 { t with stgPoly := v }) h p
    case setinit v => exact indistinguishable_withParametersOf (t := respond statusOk 0 { t with stgInit := v }) h p
    case setxorout v => exact indistinguishable_withParametersOf (t := respond statusOk 0 { t with stgXorOut := v }) h p
    case config w ri ro =>
      simp only [exec, execConfig]
      split
      · exact indistinguishable_refl (respond statusOk 0 (latch w ri ro t))
      · exact indistinguishable_withParametersOf (t := raise .invalidParameter t) h p
    case reflect w v =>
      simp only [exec, execReflect]
      split
      · exact indistinguishable_withParametersOf (t := respond statusOk (reflect v w.toNat) t) h p
      · exact indistinguishable_withParametersOf (t := raise .invalidParameter t) h p
    all_goals cases needs

/-- Nor does the core's turn: both states have the same command outstanding. -/
theorem coreTurn_agrees {t : State} (h : t.configured = false) (p : State) :
    OutcomesAgree Indistinguishable (coreTurn exec (withParametersOf p t)) (coreTurn exec t) := by
  have same : (withParametersOf p t).outstanding = t.outstanding := rfl
  rcases coreTurn_cases t with ⟨ho, idle⟩ | ⟨b, ho, hd, illegal⟩ | ⟨b, i, ho, hd, runs⟩
  · rw [idle, coreTurn_idle exec (same.trans ho)]
    exact indistinguishable_withParametersOf h p
  · rw [illegal, coreTurn_illegal exec (same.trans ho) hd]
    exact indistinguishable_withParametersOf (t := raise .illegalCommand t) h p
  · rw [runs, coreTurn_decoded exec (same.trans ho) hd]
    exact exec_agrees i h p

theorem presentBeat_withParametersOf (b : Beat) (p t : State) :
    presentBeat b (withParametersOf p t) = withParametersOf p (presentBeat b t) :=
  (apply_ite (withParametersOf p) (cmdReady t = true) (issue b t) t).symm

/-- A drive of `rst_n` leaves the difference as it is or erases it. -/
theorem driveRstN_indistinguishable (level : Bool) {t : State} (h : t.configured = false) (p : State) :
    Indistinguishable (driveRstN level (withParametersOf p t)) (driveRstN level t) := by
  by_cases held : (level && t.rstN) = true
  · rw [driveRstN_of_held held, driveRstN_of_held (s := withParametersOf p t) held]
    exact indistinguishable_withParametersOf h p
  · rw [driveRstN_of_not_held held, driveRstN_of_not_held (s := withParametersOf p t) held]
    exact indistinguishable_refl { resetCore t with rstN := level }

/-- Nor does any move of the host. -/
theorem takeMove_agrees (m : Move) {t : State} (h : t.configured = false) (p : State) :
    OutcomesAgree Indistinguishable (takeMove exec m (withParametersOf p t)) (takeMove exec m t) := by
  cases m with
  | core => exact coreTurn_agrees h p
  | present b =>
    simp only [takeMove, presentBeat_withParametersOf]
    exact indistinguishable_withParametersOf ((presentBeat_configured b t).trans h) p
  | writeByte i v => exact indistinguishable_withParametersOf (t := hostWriteByte i v t) h p
  | setLength n =>
    rcases Nat.lt_or_ge Config.hbufMax n.toNat with above | within
    · rw [takeMove_setLength_of_lt exec _ above, takeMove_setLength_of_lt exec _ above]
      exact rfl
    · rw [takeMove_setLength_of_le exec _ within, takeMove_setLength_of_le exec _ within]
      exact indistinguishable_withParametersOf (t := hostSetLength n t) h p
  | driveReset level => exact driveRstN_indistinguishable level h p

/-- The step of the simulation. -/
theorem step_agrees {s t : State} (h : Indistinguishable s t) :
    OutcomesAgree Indistinguishable (step s) (step t) := by
  rcases h with rfl | ⟨_, ht, e⟩
  · exact outcomesAgree_refl indistinguishable_refl (step s)
  · rw [← e]
    cases hs : t.schedule with
    | nil =>
      rw [step_of_no_move hs, step_of_no_move (s := withParametersOf s t) hs]
      exact coreTurn_agrees ht s
    | cons m rest =>
      rw [step_of_move hs, step_of_move (s := withParametersOf s t) hs]
      exact takeMove_agrees m (t := { t with schedule := rest }) ht s

/-- A run whose first step faults ends there. -/
theorem run_of_fault {s : State} {f : Fault} {n : Nat} (h : step s = .fault f) :
    Host.Core.run Sys2Proof.core (n + 1) s = .fault f := by
  simp only [Host.Core.run]
  rw [show Sys2Proof.core.step s = .fault f from h]

/-- A run whose first step is refused ends there. -/
theorem run_of_refusal {s : State} {r : Refusal} {n : Nat} (h : step s = .refused r) :
    Host.Core.run Sys2Proof.core (n + 1) s = .refused r := by
  simp only [Host.Core.run]
  rw [show Sys2Proof.core.step s = .refused r from h]

/-- Runs of the same length from indistinguishable states agree. -/
theorem run_agrees (n : Nat) {s t : State} (h : Indistinguishable s t) :
    OutcomesAgree Indistinguishable (Host.Core.run Sys2Proof.core n s) (Host.Core.run Sys2Proof.core n t) := by
  induction n generalizing s t with
  | zero => exact h
  | succ n ih =>
    rcases outcomesAgree_cases (step_agrees h) with ⟨a, b, hs, ht, hab⟩ | ⟨f, hs, ht⟩ | ⟨r, hs, ht⟩
    · rw [run_of_step hs, run_of_step ht]
      exact ih hab
    · rw [run_of_fault hs, run_of_fault ht]
      exact rfl
    · rw [run_of_refusal hs, run_of_refusal ht]
      exact rfl

/-- What the outside sees of indistinguishable states is the same. -/
theorem Indistinguishable.same_ports {s t : State} (h : Indistinguishable s t) :
    s.rspStatus = t.rspStatus ∧ s.rspData = t.rspData ∧ s.rspValid = t.rspValid ∧ cmdReady s = cmdReady t := by
  rcases h with rfl | ⟨_, _, e⟩
  · exact ⟨rfl, rfl, rfl, rfl⟩
  · rw [← e]
    exact ⟨rfl, rfl, rfl, rfl⟩

/-- Settles O51: the relation is a simulation, and related states show the same ports. -/
theorem unspecifiedResetValuesCannotBeObserved : Obligations.UnspecifiedResetValuesCannotBeObserved :=
  fun n _ _ h => (run_agrees n h).mono fun _ _ hab => ⟨hab, hab.same_ports⟩

end Sys2Proof.Machine

/-! SUPPORT. One move of the host or of the core as an equation of `step` (R51, R61, R81), and what a command leaves of the
host's side of the state (R56). -/

namespace Sys2Proof.Machine

/-- Ready is out of reset with nothing outstanding (R81, log entry 12). -/
theorem cmdReady_iff {s : State} : cmdReady s = true ↔ s.rstN = true ∧ s.outstanding = none := by
  simp [cmdReady]

theorem presentBeat_of_ready {s : State} (h : cmdReady s = true) (b : Beat) : presentBeat b s = issue b s :=
  if_pos h

theorem presentBeat_of_not_ready {s : State} (h : ¬cmdReady s = true) (b : Beat) : presentBeat b s = s :=
  if_neg h

/-- A host write is made at once, whatever the core is doing (R51). -/
theorem step_writeByte {s : State} {i : BitVec 32} {v : Byte} {rest : List Move}
    (h : s.schedule = .writeByte i v :: rest) : step s = .next (hostWriteByte i v { s with schedule := rest }) :=
  step_of_move h

/-- A beat presented to a ready core is issued (R81). -/
theorem step_present_of_ready {s : State} {b : Beat} {rest : List Move} (ready : cmdReady s = true)
    (h : s.schedule = .present b :: rest) : step s = .next (issue b { s with schedule := rest }) :=
  (step_of_move h).trans (congrArg _ (presentBeat_of_ready (s := { s with schedule := rest }) ready b))

/-- The core's turn runs the command outstanding (R75). -/
theorem step_core_decoded {s : State} {b : Beat} {i : Instr} {rest : List Move} (ho : s.outstanding = some b)
    (hd : decode b = some i) (h : s.schedule = .core :: rest) : step s = exec i { s with schedule := rest } :=
  (step_of_move h).trans (coreTurn_decoded exec (s := { s with schedule := rest }) ho hd)

/-- Settles O10: the core's turn is `exec` of the decoded command, taken off the schedule or with no move left. -/
theorem stepRunsTheDecodedInstruction : Obligations.StepRunsTheDecodedInstruction :=
  fun _ _ _ _ ho hd =>
    ⟨step_core_decoded ho hd, fun empty => (step_of_no_move empty).trans (coreTurn_decoded exec ho hd)⟩

/-- A ready core given a decodable beat and then its turn has run the command after two steps (R61, R81). -/
theorem run_present_core {s t : State} {b : Beat} {i : Instr} {rest : List Move} (ready : cmdReady s = true)
    (hd : decode b = some i) (h : s.schedule = .present b :: .core :: rest)
    (runs : exec i (issue b { s with schedule := rest }) = .next t) :
    Host.Core.run Sys2Proof.core 2 s = .next t := by
  rw [run_of_step (step_present_of_ready ready h), run_of_step ((step_core_decoded rfl hd rfl).trans runs)]
  rfl

/-- What an answer of the core leaves of the host's side of the state, and what it says on the response port (R56, R80,
R201). -/
structure Answered (s t : State) : Prop where
  same_bytes : t.hbuf = s.hbuf
  same_length : t.hbufLen = s.hbufLen
  same_sample : t.lenAtIssue = s.lenAtIssue
  same_reset : t.rstN = s.rstN
  response_present : t.rspValid = true
  nothing_outstanding : t.outstanding = none
  status_known : t.rspStatus.toNat ≤ 4
  error_data_zero : t.rspStatus ≠ 0 → t.rspData = 0

/-- Every error has a code of R201. -/
theorem errorCode_le_four (e : CommandError) : (errorCode e).toNat ≤ 4 := by
  cases e <;> decide

theorem raise_answered (e : CommandError) (s : State) : Answered s (raise e s) :=
  ⟨rfl, rfl, rfl, rfl, rfl, rfl, errorCode_le_four e, fun _ => rfl⟩

/-- A response without an error, after writes of the core's own registers only. -/
theorem respond_answered {s u : State} (data : Word) (bytes : u.hbuf = s.hbuf) (length : u.hbufLen = s.hbufLen)
    (sample : u.lenAtIssue = s.lenAtIssue) (reset : u.rstN = s.rstN) : Answered s (respond statusOk data u) :=
  ⟨bytes, length, sample, reset, rfl, rfl, Nat.zero_le 4, fun error => absurd rfl error⟩

/-- Every command is answered so. -/
theorem exec_answered {i : Instr} {s t : State} (ht : exec i s = .next t) : Answered s t := by
  obtain ⟨t', ht', what⟩ := exec_cases i s
  obtain rfl : t' = t := by simpa [ht'] using ht
  rcases what with ⟨e, rfl⟩ | ⟨_, rfl⟩ | ⟨_, _, rfl⟩ | ⟨_, _, rfl⟩ | ⟨_, _, rfl⟩ | ⟨_, _, _, _, _, rfl⟩ | ⟨_, _, rfl⟩ |
    ⟨_, _, _, rfl⟩ | ⟨_, _, _, _, _, rfl⟩
  case inl => exact raise_answered e s
  all_goals exact respond_answered _ rfl rfl rfl rfl

/-- So is every word outstanding, legal or not; with nothing outstanding the core's turn changes nothing (R218). -/
theorem coreTurn_answered {s t : State} (ht : coreTurn exec s = .next t) :
    (s.outstanding = none ∧ t = s) ∨ (s.outstanding.isSome = true ∧ Answered s t) := by
  rcases coreTurn_cases s with ⟨ho, idle⟩ | ⟨b, ho, _, illegal⟩ | ⟨b, i, ho, _, runs⟩
  · exact .inl ⟨ho, Host.Outcome.next.inj (ht.symm.trans idle)⟩
  · obtain rfl : t = raise .illegalCommand s := Host.Outcome.next.inj (ht.symm.trans illegal)
    exact .inr ⟨Option.isSome_of_mem ho, raise_answered _ s⟩
  · exact .inr ⟨Option.isSome_of_mem ho, exec_answered (runs.symm.trans ht)⟩

theorem hbufRead_congr {s t : State} (h : t.hbuf = s.hbuf) (a : Nat) : hbufRead t a = hbufRead s a := by
  rw [hbufRead, hbufRead, h]

/-- Settles O19: no command writes the list of the host's bytes. -/
theorem noCommandWritesMemory : Obligations.NoCommandWritesMemory := by
  intro i s t ht
  have answer := exec_answered ht
  exact ⟨hbufRead_congr answer.same_bytes, answer.same_length, answer.response_present⟩

/-- A write in flight is remembered as raced (R62). -/
theorem mem_touched_hostWriteByte {s : State} (inFlight : s.outstanding.isSome = true) (i : BitVec 32) (v : Byte) (a : Nat) :
    a ∈ (hostWriteByte i v s).touched ↔ a = i.toNat ∨ a ∈ s.touched := by
  rw [hostWriteByte_touched, if_pos inFlight, List.mem_insert_iff]

/-- A change of the length in flight is remembered (R62, log entry 10). -/
theorem lenChanged_hostSetLength {s : State} (inFlight : s.outstanding.isSome = true) (n : BitVec 33) :
    (hostSetLength n s).lenChanged = true ↔ s.lenChanged = true ∨ n ≠ s.hbufLen := by
  simp [inFlight]

/-- Settles O15: the two host moves on the buffer, each by its own equations. -/
theorem hostWritesReachOnlyTheirTarget : Obligations.HostWritesReachOnlyTheirTarget := by
  refine fun s rest => ⟨fun i v h => ?_, fun n h => ⟨fun within => ?_, fun above => ?_⟩⟩
  · have reads := hbufRead_hostWriteByte i v { s with schedule := rest }
    refine ⟨_, step_writeByte h, ?_, fun a other => ?_, rfl, fun idle => ?_,
      fun inFlight => mem_touched_hostWriteByte (s := { s with schedule := rest }) inFlight i v⟩
    · rw [reads, if_pos rfl]
    · rw [reads, if_neg other.symm]
      rfl
    · simp [idle]
  · refine ⟨_, (step_of_move h).trans (takeMove_setLength_of_le exec _ within), rfl, rfl, fun idle => ?_,
      fun inFlight => lenChanged_hostSetLength (s := { s with schedule := rest }) inFlight n⟩
    simp [idle]
  · exact (step_of_move h).trans (takeMove_setLength_of_lt exec _ above)

end Sys2Proof.Machine

/-! SUPPORT. UPDATER's outcomes (R165) and the bytes it consumes: those of its own range, as the host last wrote them (R54, R59,
R61). -/

namespace Sys2Proof.Machine

/-- A legal UPDATER feeds the bytes of its range to the register. -/
theorem exec_updater_of_legal {s : State} {o l : BitVec 32} (hc : s.configured = true)
    (hr : rangeLegal o l s.lenAtIssue = true) :
    exec (.updater o l) s = .next (respond statusOk 0 { s with
      crc := stepBytes s.table s.cfgRefIn s.crc (consumedBytes s o.toNat l.toNat), draws := s.draws + l.toNat }) := by
  simp [exec, execUpdater, whenConfigured, hc, hr]

/-- An UPDATER beyond the sampled length raises `OutOfRange` (R205). -/
theorem exec_updater_of_not_legal {s : State} {o l : BitVec 32} (hc : s.configured = true)
    (hr : ¬rangeLegal o l s.lenAtIssue = true) : exec (.updater o l) s = .next (raise .outOfRange s) := by
  simp [exec, execUpdater, whenConfigured, hc, hr]

/-- With a quiet host the bytes consumed are those of the host buffer (R54, R237). -/
theorem consumedBytes_of_quiet {s : State} (quiet : QuietHost s) (offset n : Nat) :
    consumedBytes s offset n = (List.range n).map fun j => hbufRead s (offset + j) := by
  obtain ⟨untouched, sameLength⟩ := quiet
  refine List.map_congr_left fun j _ => ?_
  simp [consumedByte, raced, untouched, sameLength]

/-- A host memory that reads alike in the range gives the same bytes; whether a byte is raced does not depend on it. -/
theorem consumedBytes_of_reads_alike {s : State} {m : Memory} {offset n : Nat}
    (h : ∀ j : Nat, j < n → hbufRead { s with hbuf := m } (offset + j) = hbufRead s (offset + j)) :
    consumedBytes { s with hbuf := m } offset n = consumedBytes s offset n := by
  refine List.map_congr_left fun j hj => ?_
  rw [consumedByte, h j (List.mem_range.mp hj)]
  rfl

/-- Settles O40: the host's memory decides none of UPDATER's three outcomes, and reaches the register through the bytes
consumed only. -/
theorem updaterReadsOnlyItsOwnRange : Obligations.UpdaterReadsOnlyItsOwnRange := by
  intro s m o l alike
  by_cases hc : s.configured = true
  · by_cases hr : rangeLegal o l s.lenAtIssue = true
    · rw [exec_updater_of_legal hc hr, exec_updater_of_legal (s := { s with hbuf := m }) hc hr,
        consumedBytes_of_reads_alike alike]
      exact rfl
    · rw [exec_updater_of_not_legal hc hr, exec_updater_of_not_legal (s := { s with hbuf := m }) hc hr]
      exact rfl
  · rw [Bool.not_eq_true] at hc
    rw [exec_of_not_configured rfl hc, exec_of_not_configured (s := { s with hbuf := m }) rfl hc]
    exact rfl

/-- An UPDATER issued to a ready core and run at once consumes the bytes of the host buffer as they stand at issue. -/
theorem run_updater {s : State} {b : Beat} {o l : BitVec 32} {rest : List Move} (ready : cmdReady s = true)
    (hc : s.configured = true) (hd : decode b = some (.updater o l)) (within : o.toNat + l.toNat ≤ s.hbufLen.toNat)
    (h : s.schedule = .present b :: .core :: rest) :
    ∃ t : State, Host.Core.run Sys2Proof.core 2 s = .next t ∧ t.rspStatus = 0 ∧ t.schedule = rest ∧
      t.crc = stepBytes s.table s.cfgRefIn s.crc ((List.range l.toNat).map fun j => hbufRead s (o.toNat + j)) := by
  have hr : rangeLegal o l (issue b { s with schedule := rest }).lenAtIssue = true := decide_eq_true within
  have quiet : QuietHost (issue b { s with schedule := rest }) := ⟨rfl, rfl⟩
  exact ⟨_, run_present_core ready hd h (exec_updater_of_legal hc hr), rfl, rfl,
    congrArg (stepBytes s.table s.cfgRefIn s.crc) (consumedBytes_of_quiet quiet _ _)⟩

/-- Settles O16, by induction on the writes: each step makes the first of them, and the UPDATER then reads what they left. -/
theorem hostWriteBeforeIssueIsSeenByTheUpdater : Obligations.HostWriteBeforeIssueIsSeenByTheUpdater := by
  intro s writes b o l rest ready hc hd within h
  induction writes generalizing s with
  | nil => exact run_updater ready hc hd within h
  | cons w writes ih =>
    simp only [byteAfterWrites_cons s w writes (writes.map (fun w => .writeByte w.1 w.2) ++ .present b :: .core :: rest)]
    rw [List.length_cons, Nat.add_right_comm, run_of_step (step_writeByte h)]
    exact ih _ ready hc within rfl

end Sys2Proof.Machine

/-! SUPPORT. The invariants of the ports and of the host's memory, move by move. -/

namespace Sys2Proof.Machine

/-- An answer to the command outstanding keeps the port invariant: the core is then not held in reset. -/
theorem PortInv.of_answered {s t : State} (h : PortInv s) (inFlight : s.outstanding.isSome = true)
    (answer : Answered s t) : PortInv t where
  hbuf_canonical := answer.same_bytes ▸ h.hbuf_canonical
  length_bounded := answer.same_length ▸ h.length_bounded
  sample_bounded := answer.same_sample ▸ h.sample_bounded
  status_known := answer.status_known
  error_data_zero := answer.error_data_zero
  outstanding_unanswered := by simp [answer.nothing_outstanding]
  held_in_reset := fun held => by simp [(h.held_in_reset (answer.same_reset ▸ held)).1] at inFlight

theorem coreTurn_portInv {s t : State} (h : PortInv s) (ht : coreTurn exec s = .next t) : PortInv t := by
  rcases coreTurn_answered ht with ⟨_, rfl⟩ | ⟨inFlight, answer⟩
  · exact h
  · exact h.of_answered inFlight answer

/-- A command is issued only out of reset, and takes the earlier response away (R81). -/
theorem issue_portInv {s : State} (h : PortInv s) (ready : cmdReady s = true) (b : Beat) : PortInv (issue b s) where
  hbuf_canonical := h.hbuf_canonical
  length_bounded := h.length_bounded
  sample_bounded := h.length_bounded
  status_known := h.status_known
  error_data_zero := h.error_data_zero
  outstanding_unanswered := fun _ => rfl
  held_in_reset := fun held => by simp [(cmdReady_iff.mp ready).1] at held

theorem presentBeat_portInv {s : State} (h : PortInv s) (b : Beat) : PortInv (presentBeat b s) := by
  by_cases ready : cmdReady s = true
  · exact presentBeat_of_ready ready b ▸ issue_portInv h ready b
  · exact (presentBeat_of_not_ready ready b).symm ▸ h

theorem hostWriteByte_portInv {s : State} (h : PortInv s) (i : BitVec 32) (v : Byte) : PortInv (hostWriteByte i v s) :=
  { h with hbuf_canonical := Memory.write_wf h.hbuf_canonical i.isLt v }

theorem hostSetLength_portInv {s : State} (h : PortInv s) {n : BitVec 33} (within : n.toNat ≤ Config.hbufMax) :
    PortInv (hostSetLength n s) :=
  { h with length_bounded := within }

/-- Hardware reset keeps what is the host's and clears what the other items speak of (R230, log entry 11). -/
theorem driveRstN_portInv {s : State} (h : PortInv s) (level : Bool) : PortInv (driveRstN level s) := by
  by_cases held : (level && s.rstN) = true
  · exact (driveRstN_of_held held).symm ▸ h
  · rw [driveRstN_of_not_held held]
    exact {
      hbuf_canonical := h.hbuf_canonical
      length_bounded := h.length_bounded
      sample_bounded := Nat.zero_le _
      status_known := Nat.zero_le 4
      error_data_zero := fun _ => rfl
      outstanding_unanswered := fun _ => rfl
      held_in_reset := fun _ => ⟨rfl, rfl, rfl⟩ }

/-- Settles O49: taking a move off the schedule touches no item, and each kind of move keeps them. -/
theorem portInvariantIsKeptByEveryStep : Obligations.PortInvariantIsKeptByEveryStep := by
  intro s t h ht
  obtain ⟨r, ⟨rest, rfl⟩, what⟩ := step_cases ht
  have hr : PortInv { s with schedule := rest } := { h with }
  rcases what with turn | ⟨b, rfl⟩ | ⟨i, v, rfl⟩ | ⟨n, within, rfl⟩ | ⟨level, rfl⟩
  · exact coreTurn_portInv hr turn
  · exact presentBeat_portInv hr b
  · exact hostWriteByte_portInv hr i v
  · exact hostSetLength_portInv hr within
  · exact driveRstN_portInv hr level

end Sys2Proof.Machine


/-! SUPPORT. The decoder as one equivalence: a beat decodes to a command exactly when its word agrees with the command's row on
the bits that R72 fixes for the format, and the operand fields hold the command's operands (R72 to R75). -/

namespace Sys2Proof

open Sys2Proof.Machine
open Sys2Proof.Laws
open Sys2Proof.Laws.EncodedRow (rowNumber Statement)

/-- The bits of the word that a format fixes, `OP` and the must-be-zero fields (R72). -/
def Format.mask : Format → CmdWord
  | .N => 0xFFFFFFFF
  | .D => 0xFFFFFFFF
  | .B => 0xFFFF00FF
  | .C => 0xFE00FFFF
  | .K => 0xFF80FFFF

/-- The row of a command has the mask of its format, and its pattern is `OP` alone (R74). -/
theorem opcodeTable_rowNumber (i : Instr) :
    ∃ mnemonic, opcodeTable[rowNumber i]? = some ⟨mnemonic, i.format.mask, BitVec.ofNat 32 (rowNumber i)⟩ := by
  cases i <;> exact ⟨_, rfl⟩

/-- `OP` values from 0xB up have no row (R74). -/
theorem rowNumber_lt (i : Instr) : rowNumber i < 0xB :=
  let ⟨_, hrow⟩ := opcodeTable_rowNumber i
  (List.getElem?_eq_some_iff.mp hrow).1

/-- A field whose bits are all fixed by a row's mask is that of the row's pattern. -/
theorem field_of_masked {c m p : CmdWord} {k n : Nat} (agrees : c &&& m = p)
    (fixed : m.extractLsb' k n = BitVec.allOnes n) : c.extractLsb' k n = p.extractLsb' k n := by
  rw [← agrees, BitVec.extractLsb'_and, fixed, BitVec.and_allOnes]

/-- Every row fixes `OP`, at the row's own number (R74). -/
theorem opField_of_row {n : Nat} {row : OpRow} (hrow : opcodeTable[n]? = some row) :
    opField row.mask = BitVec.allOnes 4 ∧ (opField row.pattern).toNat = n := by
  obtain ⟨hn, rfl⟩ := List.getElem?_eq_some_iff.mp hrow
  have table : ∀ m : Fin 11, opField (opcodeTable[m.val]'m.isLt).mask = BitVec.allOnes 4 ∧
      (opField (opcodeTable[m.val]'m.isLt).pattern).toNat = m.val := by decide
  exact table ⟨n, hn⟩

/-- A word that matches a row has the row's number as its `OP`. -/
theorem opField_of_matches {c : CmdWord} {n : Nat} {row : OpRow} (hrow : opcodeTable[n]? = some row)
    (hm : c &&& row.mask = row.pattern) : (opField c).toNat = n := by
  obtain ⟨fixed, number⟩ := opField_of_row hrow
  rw [← number, opField, field_of_masked hm fixed, opField]

/-- A word that matches a row is read as that row's command (R75). -/
theorem decode_of_matches {b : Beat} {n : Nat} {row : OpRow} (hrow : opcodeTable[n]? = some row)
    (hm : b.word &&& row.mask = row.pattern) : decode b = instrOfRow b n := by
  simp [decode, opField_of_matches hrow hm, hrow, hm]

/-- A row's number is that of the command it reads. -/
theorem rowNumber_of_instrOfRow {b : Beat} {n : Nat} {i : Instr} (h : instrOfRow b n = some i) : rowNumber i = n := by
  unfold instrOfRow at h
  split at h <;> cases h <;> rfl

/-- A decoded word matches the row of its `OP` (R75). -/
theorem matches_of_decode {b : Beat} {i : Instr} (h : decode b = some i) :
    ∃ n row, opcodeTable[n]? = some row ∧ b.word &&& row.mask = row.pattern ∧ instrOfRow b n = some i := by
  unfold decode at h
  split at h
  · cases h
  · next row hrow =>
    split at h
    · next hm => exact ⟨_, row, hrow, hm, h⟩
    · cases h

/-- What decode does: the fixed bits are the row's, and the operands are read from their fields. -/
theorem decode_eq_some_iff {b : Beat} {i : Instr} :
    decode b = some i ↔
      b.word &&& i.format.mask = BitVec.ofNat 32 (rowNumber i) ∧ instrOfRow b (rowNumber i) = some i := by
  obtain ⟨_, hown⟩ := opcodeTable_rowNumber i
  constructor
  · intro h
    obtain ⟨n, row, hrow, hm, hi⟩ := matches_of_decode h
    obtain rfl := rowNumber_of_instrOfRow hi
    obtain rfl := Option.some.inj (hown.symm.trans hrow)
    exact ⟨hm, hi⟩
  · rintro ⟨hm, hi⟩
    rw [decode_of_matches hown hm, hi]

/-- Each row of the map reads some command (R74). -/
theorem instrOfRow_isSome (b : Beat) {n : Nat} (h : n < opcodeTable.length) : (instrOfRow b n).isSome = true := by
  change n < 11 at h
  interval_cases n <;> rfl

/-- Settles O3: every row reads a command, and a word's `OP` is the number of any row it matches. -/
theorem decodeSelectsTheOneMatchingRow : Obligations.DecodeSelectsTheOneMatchingRow := by
  intro b
  refine ⟨⟨fun h => ?_, ?_⟩, fun r hr r' hr' hm hm' => ?_⟩
  · obtain ⟨i, hi⟩ := Option.isSome_iff_exists.mp h
    obtain ⟨n, row, hrow, hm, _⟩ := matches_of_decode hi
    exact ⟨row, List.mem_of_getElem? hrow, hm⟩
  · rintro ⟨row, mem, hm⟩
    obtain ⟨n, hn, rfl⟩ := List.mem_iff_getElem.mp mem
    rw [decode_of_matches (List.getElem?_eq_getElem hn) hm]
    exact instrOfRow_isSome b hn
  · obtain ⟨n, hn⟩ := List.mem_iff_getElem?.mp hr
    obtain ⟨n', hn'⟩ := List.mem_iff_getElem?.mp hr'
    obtain rfl : n = n' := (opField_of_matches hn hm).symm.trans (opField_of_matches hn' hm')
    exact Option.some.inj (hn.symm.trans hn')

/-- A field above `OP` that the format fixes is 0 in a decoded word (R72). -/
theorem fixed_field_zero {b : Beat} {i : Instr} (h : decode b = some i) {k n : Nat} (above : 4 ≤ k)
    (fixed : i.format.mask.extractLsb' k n = BitVec.allOnes n) : b.word.extractLsb' k n = 0 := by
  rw [field_of_masked (decode_eq_some_iff.mp h).1 fixed]
  apply BitVec.eq_of_toNat_eq
  have small : rowNumber i < 2 ^ k :=
    calc rowNumber i < 0xB := rowNumber_lt i
      _ ≤ 2 ^ 4 := by decide
      _ ≤ 2 ^ k := Nat.pow_le_pow_right (by decide) above
  have fits : rowNumber i % 2 ^ 32 = rowNumber i := Nat.mod_eq_of_lt ((rowNumber_lt i).trans (by decide))
  rw [BitVec.extractLsb'_toNat, BitVec.toNat_ofNat, fits, Nat.shiftRight_eq_div_pow, Nat.div_eq_of_lt small, Nat.zero_mod]
  rfl

/-- Settles O4: `OP` is the number of the command's row, and the other fields are fixed by the format's mask. -/
theorem decodedWordsHaveNoReservedBits : Obligations.DecodedWordsHaveNoReservedBits := by
  intro b i h
  have zero {k n : Nat} (above : 4 ≤ k) := fixed_field_zero h (n := n) above
  refine ⟨?_, ?_, fun hf => ?_, fun hf => ?_, fun hf => ?_⟩
  · obtain ⟨_, hrow⟩ := opcodeTable_rowNumber i
    exact (opField_of_matches hrow (decode_eq_some_iff.mp h).1).trans_lt (rowNumber_lt i)
  · rintro (hf | hf) <;> exact zero (by decide) (by rw [hf]; decide)
  all_goals exact ⟨zero (by decide) (by rw [hf]; decide), zero (by decide) (by rw [hf]; decide)⟩

/-! ### The encoder -/

/-- Every encoded word matches its own row. -/
theorem encodedRow (i : Instr) : Statement i :=
  match i with
  | .nop => EncodedRow.nop
  | .setpoly v => EncodedRow.setpoly v
  | .setinit v => EncodedRow.setinit v
  | .setxorout v => EncodedRow.setxorout v
  | .config w ri ro => EncodedRow.config w ri ro
  | .reset => EncodedRow.reset
  | .update b => EncodedRow.update b
  | .updater o l => EncodedRow.updater o l
  | .getvalue => EncodedRow.getvalue
  | .tblrd i => EncodedRow.tblrd i
  | .reflect w v => EncodedRow.reflect w v

/-- The field a value was shifted to holds the value. -/
theorem field_of_shifted {W n k : Nat} (x : BitVec n) (fits : k + n ≤ W) :
    (x.setWidth W <<< k).extractLsb' k n = x := by
  apply BitVec.eq_of_getLsbD_eq
  intro j hj
  have inWord : k + j < W := by omega
  simp [hj, inWord]

/-- A field above or below a shifted value is 0. -/
theorem field_of_shifted_apart {W n k n' k' : Nat} (x : BitVec n) (apart : k' + n' ≤ k ∨ k + n ≤ k') :
    (x.setWidth W <<< k).extractLsb' k' n' = 0 := by
  apply BitVec.eq_of_getLsbD_eq
  intro j hj
  rcases apart with below | above
  · simp [show k' + j < k by omega]
  · simp [BitVec.getLsbD_of_ge x (k' + j - k) (by omega)]

/-- The width field of a CONFIG. -/
theorem widthField_encode_config (w : BitVec 7) (ri ro : Bool) : widthField (encode (.config w ri ro)).word = w := by
  simp only [widthField, encode, bitWord, BitVec.extractLsb'_or]
  rw [field_of_shifted w (by decide), field_of_shifted_apart (BitVec.ofBool ri) (by decide),
    field_of_shifted_apart (BitVec.ofBool ro) (by decide)]
  simp

theorem refInField_encode_config (w : BitVec 7) (ri ro : Bool) : refInField (encode (.config w ri ro)).word = ri := by
  simp [refInField, encode, bitWord]

theorem refOutField_encode_config (w : BitVec 7) (ri ro : Bool) : refOutField (encode (.config w ri ro)).word = ro := by
  simp [refOutField, encode, bitWord]

/-- The byte field of an UPDATE or a TBLRD, whose words differ in `OP` only. -/
theorem imm8Field_of_shifted (op : CmdWord) (x : BitVec 8) (low : op.extractLsb' 8 8 = 0) :
    imm8Field (op ||| (x.setWidth 32 <<< 8)) = x := by
  rw [imm8Field, BitVec.extractLsb'_or, field_of_shifted x (by decide), low]
  exact BitVec.zero_or

theorem widthField_encode_reflect (w : BitVec 7) (v : Word) : widthField (encode (.reflect w v)).word = w := by
  simp only [widthField, encode, BitVec.extractLsb'_or]
  rw [field_of_shifted w (by decide)]
  simp

theorem offsetField_encode_updater (o l : BitVec 32) : offsetField (encode (.updater o l)).data = o := by
  simp only [offsetField, encode, BitVec.extractLsb'_or]
  rw [field_of_shifted_apart l (by decide), BitVec.extractLsb'_setWidth_of_le (by decide)]
  simp

theorem lengthField_encode_updater (o l : BitVec 32) : lengthField (encode (.updater o l)).data = l := by
  simp only [lengthField, encode, BitVec.extractLsb'_or]
  rw [field_of_shifted l (by decide), ← BitVec.shiftLeft_zero (o.setWidth 64), field_of_shifted_apart o (by decide)]
  simp

/-- The operands of an encoding are read back from their fields (R73). -/
theorem instrOfRow_encode (i : Instr) : instrOfRow (encode i) (rowNumber i) = some i := by
  cases i with
  | nop | reset | getvalue | setpoly | setinit | setxorout => rfl
  | config w ri ro =>
    simp only [instrOfRow, rowNumber, widthField_encode_config, refInField_encode_config, refOutField_encode_config]
  | update b => exact congrArg (fun x => some (Instr.update x)) (imm8Field_of_shifted 0x6#32 b rfl)
  | updater o l => simp only [instrOfRow, rowNumber, offsetField_encode_updater, lengthField_encode_updater]
  | tblrd i => exact congrArg (fun x => some (Instr.tblrd x)) (imm8Field_of_shifted 0x9#32 i rfl)
  | reflect w v => exact congrArg (fun x => some (Instr.reflect x v)) (widthField_encode_reflect w v)

/-- Settles O1: an encoding matches its own row, and its fields hold the operands. -/
theorem decodeOfEncodeIsTheInstruction : Obligations.DecodeOfEncodeIsTheInstruction := by
  intro i
  obtain ⟨row, hrow, hm⟩ := encodedRow i
  rw [decode_of_matches hrow hm, instrOfRow_encode]

/-! ### Beats that decode to the same command -/

/-- Words with equal fields have the bits of the field in common. -/
theorem getLsbD_of_field_eq {W k n j : Nat} {c c' : BitVec W} (h : c.extractLsb' k n = c'.extractLsb' k n)
    (lo : k ≤ j) (hi : j < k + n) : c.getLsbD j = c'.getLsbD j := by
  have bit := congrArg (fun x => x.getLsbD (j - k)) h
  simpa [show j - k < n by omega, show k + (j - k) = j by omega] using bit

/-- The bits the format leaves free are those of the operand fields, so the command read from its row decides them. -/
theorem free_bit_eq {b b' : Beat} {i : Instr} (h : instrOfRow b (rowNumber i) = some i)
    (h' : instrOfRow b' (rowNumber i) = some i) {j : Nat} (hj : j < 32) (free : i.format.mask.getLsbD j = false) :
    b.word.getLsbD j = b'.word.getLsbD j := by
  have same := h.trans h'.symm
  cases i with
  | nop | reset | getvalue | setpoly | setinit | setxorout | updater =>
    have none_free : ∀ j < 32, (0xFFFFFFFF : CmdWord).getLsbD j = true := by decide
    exact absurd ((none_free j hj).symm.trans free) (by decide)
  | config w ri ro =>
    have bits : ∀ j < 32, (0xFE00FFFF : CmdWord).getLsbD j = false → (16 ≤ j ∧ j < 16 + 7) ∨ j = 23 ∨ j = 24 := by decide
    obtain ⟨width, refIn, refOut⟩ := Instr.config.inj (Option.some.inj same)
    rcases bits j hj free with ⟨lo, hi⟩ | rfl | rfl
    · exact getLsbD_of_field_eq width lo hi
    · exact refIn
    · exact refOut
  | update | tblrd =>
    have bits : ∀ j < 32, (0xFFFF00FF : CmdWord).getLsbD j = false → 8 ≤ j ∧ j < 8 + 8 := by decide
    simp only [instrOfRow, rowNumber, Option.some.injEq, Instr.update.injEq, Instr.tblrd.injEq] at same
    obtain ⟨lo, hi⟩ := bits j hj free
    exact getLsbD_of_field_eq same lo hi
  | reflect w v =>
    have bits : ∀ j < 32, (0xFF80FFFF : CmdWord).getLsbD j = false → 16 ≤ j ∧ j < 16 + 7 := by decide
    obtain ⟨width, _⟩ := Instr.reflect.inj (Option.some.inj same)
    obtain ⟨lo, hi⟩ := bits j hj free
    exact getLsbD_of_field_eq width lo hi

/-- A command has one word: the format fixes some bits, and the operands the others. -/
theorem word_eq_of_decode {b b' : Beat} {i : Instr} (h : decode b = some i) (h' : decode b' = some i) :
    b.word = b'.word := by
  obtain ⟨hm, hi⟩ := decode_eq_some_iff.mp h
  obtain ⟨hm', hi'⟩ := decode_eq_some_iff.mp h'
  apply BitVec.eq_of_getLsbD_eq
  intro j hj
  cases free : i.format.mask.getLsbD j
  · exact free_bit_eq hi hi' hj free
  · have bit := congrArg (fun c => c.getLsbD j) (hm.trans hm'.symm)
    simpa [free] using bit

/-- UPDATER's two operands make up the whole of `DATA`. -/
theorem data_eq_of_fields {d d' : Word} (offset : offsetField d = offsetField d') (length : lengthField d = lengthField d') :
    d = d' := by
  apply BitVec.eq_of_getLsbD_eq
  intro j hj
  rcases Nat.lt_or_ge j 32 with low | high
  · exact getLsbD_of_field_eq offset (Nat.zero_le j) (by omega)
  · exact getLsbD_of_field_eq length high (by omega)

/-- A command of a format that uses `DATA` has one data word. -/
theorem data_eq_of_decode {b b' : Beat} {i : Instr} (h : decode b = some i) (h' : decode b' = some i)
    (uses : i.format.usesData = true) : b.data = b'.data := by
  have same := (decode_eq_some_iff.mp h).2.trans (decode_eq_some_iff.mp h').2.symm
  cases i with
  | nop | reset | getvalue | config | update | tblrd => cases uses
  | setpoly | setinit | setxorout => simpa [instrOfRow, rowNumber] using same
  | updater o l =>
    obtain ⟨offset, length⟩ := Instr.updater.inj (Option.some.inj same)
    exact data_eq_of_fields offset length
  | reflect w v =>
    exact (Instr.reflect.inj (Option.some.inj same)).2

/-- The encoder emits `DATA` 0 in a format that ignores it (R78). -/
theorem encode_data_zero {i : Instr} (unused : i.format.usesData = false) : (encode i).data = 0 := by
  cases i with
  | nop | reset | getvalue | config | update | tblrd => rfl
  | setpoly | setinit | setxorout | updater | reflect => cases unused

/-- Settles O2: the beat and the encoding decode to the same command, so they are the same where the command decides. -/
theorem encodeOfDecodeIsTheBeat : Obligations.EncodeOfDecodeIsTheBeat := by
  intro b i h
  have h' := decodeOfEncodeIsTheInstruction i
  exact ⟨word_eq_of_decode h' h, data_eq_of_decode h' h, encode_data_zero⟩

/-! ### `DATA` in the formats that ignore it -/

/-- No operand of a format that ignores `DATA` is read from it (R73, R77). -/
theorem instrOfRow_data {c : CmdWord} (d d' : Word) {i : Instr} (unused : i.format.usesData = false) :
    instrOfRow ⟨c, d⟩ (rowNumber i) = instrOfRow ⟨c, d'⟩ (rowNumber i) := by
  cases i with
  | nop | reset | getvalue | config | update | tblrd => rfl
  | setpoly | setinit | setxorout | updater | reflect => cases unused

theorem decode_data {c : CmdWord} {d : Word} {i : Instr} (unused : i.format.usesData = false)
    (h : decode ⟨c, d⟩ = some i) (d' : Word) : decode ⟨c, d'⟩ = some i :=
  let ⟨hm, hi⟩ := decode_eq_some_iff.mp h
  decode_eq_some_iff.mpr ⟨hm, (instrOfRow_data d' d unused).trans hi⟩

/-- A command does not read the beat it was issued as: it takes it away. -/
theorem exec_outstanding (i : Instr) (s : State) (o : Option Beat) : exec i { s with outstanding := o } = exec i s := by
  cases i <;> rfl

/-- Settles O5: the command read is the same, and it does not read the beat again. -/
theorem dataIsIgnoredByFormatsNBC : Obligations.DataIsIgnoredByFormatsNBC := by
  intro s c d d' i h hf
  have unused : i.format.usesData = false := by rcases hf with hf | hf | hf <;> rw [hf] <;> rfl
  have h' := decode_data unused h d'
  refine ⟨h', ?_⟩
  rw [coreTurn_decoded exec rfl h, coreTurn_decoded exec rfl h']
  exact (exec_outstanding i s _).trans (exec_outstanding i s _).symm

/-- Settles O6: closed words, each decoded by evaluation. -/
theorem decodeOfTheWordsWrittenOut : Obligations.DecodeOfTheWordsWrittenOut := by
  unfold Obligations.DecodeOfTheWordsWrittenOut
  decide

end Sys2Proof

/-! SUPPORT. The assembler's lines as commands (R78): the beat of a line whose operands fit is the command's encoding. -/

namespace Sys2Proof.Machine

/-- The R78 line that names a command, with the operands as written. -/
def lineOfInstr : Instr → CoreLine
  | .nop => .nop
  | .setpoly v => .setpoly v.toNat
  | .setinit v => .setinit v.toNat
  | .setxorout v => .setxorout v.toNat
  | .config w ri ro => .config w.toNat ri.toNat ro.toNat
  | .reset => .reset
  | .update b => .update b.toNat
  | .updater o l => .updater o.toNat l.toNat
  | .getvalue => .getvalue
  | .tblrd i => .tblrd i.toNat
  | .reflect w v => .reflect w.toNat v.toNat

/-- A command's operands fit their fields. -/
theorem wellFormed_lineOfInstr (i : Instr) : (lineOfInstr i).wellFormed = true := by
  cases i with
  | nop | reset | getvalue => rfl
  | setpoly v | setinit v | setxorout v => exact decide_eq_true v.isLt
  | config w ri ro => simp [lineOfInstr, CoreLine.wellFormed, w.isLt, Bool.toNat_le]
  | update x | tblrd x => exact decide_eq_true x.isLt
  | updater o l => simp [lineOfInstr, CoreLine.wellFormed, o.isLt, l.isLt]
  | reflect w v => simp [lineOfInstr, CoreLine.wellFormed, w.isLt, v.isLt]

/-- An operand shifted to its field, as a number and as a word. -/
theorem ofNat_toNat_shiftLeft {n : Nat} (W k : Nat) (x : BitVec n) :
    BitVec.ofNat W (x.toNat <<< k) = x.setWidth W <<< k := by
  apply BitVec.eq_of_toNat_eq
  simp [Nat.shiftLeft_eq]

theorem ofNat_toNat_bool_shiftLeft (k : Nat) (x : Bool) : BitVec.ofNat 32 (x.toNat <<< k) = bitWord x <<< k := by
  rw [← BitVec.toNat_ofBool, ofNat_toNat_shiftLeft, bitWord]

/-- The second column of R78's table is the encoding of the first. -/
theorem lineBeat_lineOfInstr (i : Instr) : lineBeat (lineOfInstr i) = encode i := by
  cases i with
  | nop | reset | getvalue => rfl
  | setpoly v | setinit v | setxorout v => simp [lineOfInstr, lineBeat, encode]
  | config w ri ro =>
    simp [lineOfInstr, lineBeat, encode, BitVec.ofNat_or, ofNat_toNat_shiftLeft, ofNat_toNat_bool_shiftLeft]
  | update x | tblrd x | reflect x => simp [lineOfInstr, lineBeat, encode, BitVec.ofNat_or, ofNat_toNat_shiftLeft]
  | updater o l => simp [lineOfInstr, lineBeat, encode, BitVec.ofNat_or, ofNat_toNat_shiftLeft]

/-- A line is one beat when its operands fit, and is rejected otherwise (R78). -/
theorem assemble_core (l : CoreLine) : assemble (.core l) = if l.wellFormed then some [lineBeat l] else none := by
  simp [assemble, AsmLine.wellFormed, AsmLine.expand]

theorem assemble_core_eq_none_iff (l : CoreLine) : assemble (.core l) = none ↔ l.wellFormed = false := by
  rw [assemble_core]
  cases l.wellFormed <;> simp

/-- The line of a command assembles to one beat, which decodes to the command. -/
theorem assemble_lineOfInstr (i : Instr) :
    assemble (.core (lineOfInstr i)) = some [lineBeat (lineOfInstr i)] ∧ decode (lineBeat (lineOfInstr i)) = some i := by
  rw [assemble_core, wellFormed_lineOfInstr, lineBeat_lineOfInstr]
  exact ⟨rfl, decodeOfEncodeIsTheInstruction i⟩

/-- Settles O7: each of the eleven lines is the line of its command. -/
theorem assembledLinesDecodeToTheirCommands : Obligations.AssembledLinesDecodeToTheirCommands :=
  ⟨assemble_lineOfInstr .nop, assemble_lineOfInstr .reset, assemble_lineOfInstr .getvalue,
    fun v => ⟨assemble_lineOfInstr (.setpoly v), assemble_lineOfInstr (.setinit v), assemble_lineOfInstr (.setxorout v)⟩,
    fun w ri ro => assemble_lineOfInstr (.config w ri ro),
    fun b => ⟨assemble_lineOfInstr (.update b), assemble_lineOfInstr (.tblrd b)⟩,
    fun o l => assemble_lineOfInstr (.updater o l),
    fun w v => assemble_lineOfInstr (.reflect w v)⟩

/-- Settles O8: a line is rejected exactly when it is not well formed, which is a comparison per operand. -/
theorem assemblerRejectsWhatDoesNotFit : Obligations.AssemblerRejectsWhatDoesNotFit := by
  unfold Obligations.AssemblerRejectsWhatDoesNotFit
  simp only [assemble_core_eq_none_iff, CoreLine.wellFormed, Bool.and_eq_false_iff, decide_eq_false_iff_not, Nat.not_lt]
  simp [or_assoc]

/-- A line whose expansion is that of commands assembles to their encodings (R79). -/
theorem assemble_of_expand {l : AsmLine} {is : List Instr} (nonempty : is ≠ []) (h : l.expand = is.map lineOfInstr) :
    assemble l = some (is.map encode) := by
  have wf : l.wellFormed = true := by simp [AsmLine.wellFormed, h, nonempty, wellFormed_lineOfInstr]
  simp [assemble, wf, h, lineBeat_lineOfInstr, Function.comp_def]

/-- Settles O9: each pseudo-instruction expands to lines of commands. -/
theorem pseudoInstructionsAssembleToTheirExpansions : Obligations.PseudoInstructionsAssembleToTheirExpansions := by
  refine ⟨by decide, by decide, fun w p i x ri ro => ?_, fun bytes nonempty => ?_, fun x => ?_⟩
  · have beat : lineBeat (.config w.toNat ri.toNat ro.toNat) = encode (.config w ri ro) :=
      lineBeat_lineOfInstr (.config w ri ro)
    rw [beat]
    exact assemble_of_expand (is := [.setpoly p, .setinit i, .setxorout x, .config w ri ro]) (by simp) rfl
  · have lines : (AsmLine.updates (bytes.map BitVec.toNat)).expand = (bytes.map Instr.update).map lineOfInstr := by
      simp [AsmLine.expand, lineOfInstr]
    rw [assemble_of_expand (by simpa using nonempty) lines]
    simp [← lineBeat_lineOfInstr, lineOfInstr]
  · exact assemble_of_expand (is := [.reflect 64 x]) (by simp) rfl

end Sys2Proof.Machine

/-! SUPPORT. The response port (R80, R81): every beat outstanding is answered with the data it is due, and the answer stays
until the next beat is issued. -/

namespace Sys2Proof.Machine

/-- No command touches the moves still to come. -/
theorem exec_schedule {i : Instr} {s t : State} (ht : exec i s = .next t) : t.schedule = s.schedule := by
  obtain ⟨t', ht', what⟩ := exec_cases i s
  obtain rfl : t' = t := by simpa [ht'] using ht
  rcases what with ⟨_, rfl⟩ | ⟨_, rfl⟩ | ⟨_, _, rfl⟩ | ⟨_, _, rfl⟩ | ⟨_, _, rfl⟩ | ⟨_, _, _, _, _, rfl⟩ | ⟨_, _, rfl⟩ |
    ⟨_, _, _, rfl⟩ | ⟨_, _, _, _, _, rfl⟩ <;> rfl

theorem coreTurn_schedule {s t : State} (ht : coreTurn exec s = .next t) : t.schedule = s.schedule := by
  rcases coreTurn_next ht with rfl | rfl | ⟨_, _, _, _, runs⟩
  · rfl
  · rfl
  · exact exec_schedule runs

/-- With a beat outstanding the core's turn answers it. -/
theorem coreTurn_answered_of_outstanding {s t : State} {b : Beat} (ho : s.outstanding = some b)
    (ht : coreTurn exec s = .next t) : Answered s t := by
  rcases coreTurn_answered ht with ⟨idle, _⟩ | ⟨_, answer⟩
  · cases ho.symm.trans idle
  · exact answer

/-- The core's turn, taken off the schedule. -/
theorem step_core {s : State} {rest : List Move} (h : s.schedule = .core :: rest) :
    step s = coreTurn exec { s with schedule := rest } :=
  step_of_move h

/-- Settles O13: the first step issues the beat, the second answers it, and neither touches the host buffer. -/
theorem everyIssuedCommandGetsOneResponse : Obligations.EveryIssuedCommandGetsOneResponse := by
  intro s b rest ready h
  obtain ⟨t, ht⟩ := coreTurn_answers (issue b { s with schedule := rest })
  have answer := coreTurn_answered_of_outstanding rfl ht
  have answers : step (issue b { s with schedule := .core :: rest }) = .next t := (step_core rfl).trans ht
  refine ⟨t, ?_, answer.response_present, ?_, coreTurn_schedule ht, answer.status_known, answer.error_data_zero,
    answer.same_length, hbufRead_congr answer.same_bytes⟩
  · rw [run_of_step (step_present_of_ready ready h), run_of_step answers]
    rfl
  · exact cmdReady_iff.mpr ⟨answer.same_reset.trans (cmdReady_iff.mp ready).1, answer.nothing_outstanding⟩

/-- While a response is present nothing is outstanding (R81). -/
theorem PortInv.idle_of_response {s : State} (h : PortInv s) (present : s.rspValid = true) : s.outstanding = none := by
  by_contra inFlight
  have gone := h.outstanding_unanswered (Option.isSome_iff_ne_none.mpr inFlight)
  cases present.symm.trans gone

/-- Settles O14: the core is idle while a response is present, so only an issue or a reset takes it away. -/
theorem responseIsHeldUntilTheNextIssue : Obligations.ResponseIsHeldUntilTheNextIssue := by
  intro s t inv present ht
  have idle := inv.idle_of_response present
  cases hs : s.schedule with
  | nil =>
    rw [step_of_no_move hs, coreTurn_idle exec idle] at ht
    cases ht
    exact .inl ⟨present, rfl, rfl⟩
  | cons m rest =>
    rw [step_of_move hs] at ht
    cases m with
    | core =>
      rw [takeMove, coreTurn_idle exec (s := { s with schedule := rest }) idle] at ht
      cases ht
      exact .inl ⟨present, rfl, rfl⟩
    | present b =>
      cases ht
      by_cases ready : cmdReady { s with schedule := rest } = true
      · rw [presentBeat_of_ready ready]
        exact .inr (.inl ⟨b, rest, rfl, rfl, rfl⟩)
      · rw [presentBeat_of_not_ready ready]
        exact .inl ⟨present, rfl, rfl⟩
    | writeByte i v =>
      cases ht
      exact .inl ⟨present, rfl, rfl⟩
    | setLength n =>
      rcases Nat.lt_or_ge Config.hbufMax n.toNat with above | within
      · cases ht.symm.trans (takeMove_setLength_of_lt exec _ above)
      · cases ht.symm.trans (takeMove_setLength_of_le exec _ within)
        exact .inl ⟨present, rfl, rfl⟩
    | driveReset level =>
      cases ht
      by_cases held : (level && s.rstN) = true
      · rw [driveRstN_of_held (s := { s with schedule := rest }) held]
        exact .inl ⟨present, rfl, rfl⟩
      · rw [driveRstN_of_not_held (s := { s with schedule := rest }) held]
        exact .inr (.inr ⟨level, rest, rfl, rfl, rfl, rfl⟩)

/-- No error has the status of success (R201). -/
theorem errorCode_ne_zero (e : CommandError) : errorCode e ≠ 0 := by
  cases e <;> decide

/-- An answer without an error carries the data the command is due. -/
def CarriesDueData (s : State) (i : Option Instr) (t : State) : Prop := t.rspStatus = 0 → t.rspData = dueData s i

/-- An error carries nothing that R80's table speaks of. -/
theorem raise_carriesDueData (s : State) (i : Option Instr) (e : CommandError) : CarriesDueData s i (raise e s) :=
  fun ok => absurd ok (errorCode_ne_zero e)

theorem whenConfigured_carriesDueData {s r : State} {i : Option Instr} (h : CarriesDueData s i r) :
    CarriesDueData s i (whenConfigured s r) := by
  rcases whenConfigured_cases s r with ⟨_, e⟩ | ⟨_, e⟩ <;> rw [e]
  · exact h
  · exact raise_carriesDueData s i _

/-- Every command answers its data of R80's table, or an error. -/
theorem exec_carriesDueData (i : Instr) (s : State) : ∃ t, exec i s = .next t ∧ CarriesDueData s (some i) t := by
  cases i with
  | nop | setpoly | setinit | setxorout => exact ⟨_, rfl, fun _ => rfl⟩
  | reset | update | getvalue | tblrd => exact ⟨_, rfl, whenConfigured_carriesDueData fun _ => rfl⟩
  | updater o l =>
    refine ⟨_, rfl, whenConfigured_carriesDueData ?_⟩
    split
    · exact fun _ => rfl
    · exact raise_carriesDueData s _ _
  | config w ri ro =>
    rw [exec, execConfig]
    split
    · exact ⟨_, rfl, fun _ => rfl⟩
    · exact ⟨_, rfl, raise_carriesDueData s _ _⟩
  | reflect w v =>
    rw [exec, execReflect]
    split
    · exact ⟨_, rfl, fun _ => rfl⟩
    · exact ⟨_, rfl, raise_carriesDueData s _ _⟩

theorem coreTurn_carriesDueData {s t : State} {b : Beat} (ho : s.outstanding = some b) (ht : coreTurn exec s = .next t) :
    CarriesDueData s (decode b) t := by
  cases hd : decode b with
  | none =>
    cases ht.symm.trans (coreTurn_illegal exec ho hd)
    exact raise_carriesDueData s none _
  | some i =>
    obtain ⟨t', runs, due⟩ := exec_carriesDueData i s
    cases ht.symm.trans ((coreTurn_decoded exec ho hd).trans runs)
    exact due

/-- Settles O32: the outstanding beat is answered, and the answer carries the data due. -/
theorem responseDataIsTheResultOrZero : Obligations.ResponseDataIsTheResultOrZero := by
  intro s t b ho ht
  have answer := coreTurn_answered_of_outstanding ho ht
  exact ⟨answer.response_present, answer.nothing_outstanding, coreTurn_carriesDueData ho ht, answer.error_data_zero⟩

/-- Settles O11: the core's turn raises `IllegalCommand`, with the move taken off the schedule or none left. -/
theorem illegalCommandIsAnsweredWithStatusFour : Obligations.IllegalCommandIsAnsweredWithStatusFour := by
  intro s b rest ho hd
  refine ⟨fun h => ?_, fun h => ?_⟩
  · exact (step_core h).trans (coreTurn_illegal exec (s := { s with schedule := rest }) ho hd)
  · exact (step_of_no_move h).trans (coreTurn_illegal exec ho hd)

/-- Settles O12: the beat presented is issued, or the move is spent. -/
theorem beatIsIssuedExactlyWhenReady : Obligations.BeatIsIssuedExactlyWhenReady := by
  intro s b rest h
  refine ⟨fun ready => step_present_of_ready ready h, fun notReady => (step_of_move h).trans ?_⟩
  exact congrArg _ (presentBeat_of_not_ready (s := { s with schedule := rest }) (ne_true_of_eq_false notReady) b)

end Sys2Proof.Machine

/-! SUPPORT. The bit reflect unit (R101 to R103): each reflection bit by bit, the laws of the two from their bits, and a beat as
its `OP` alone selects the row. -/

namespace Sys2Proof.Machine

theorem getLsbD_bitRev64 (x : Word) (i : Nat) :
    (bitRev64 x).getLsbD i = (decide (i < 64) && x.getLsbD (63 - i)) := by
  rw [bitRev64, getLsbD_gatherBits, Bool.and_self]

theorem getLsbD_reflect (x : Word) {k : Nat} (hk : k ≤ 64) (i : Nat) :
    (reflect x k).getLsbD i = (decide (i < k) && x.getLsbD (k - 1 - i)) := by
  rw [reflect, getLsbD_gatherBits]
  by_cases low : i < k
  · rw [decide_eq_true (low.trans_le hk), Bool.and_true]
  · rw [decide_eq_false low, Bool.false_and]

/-- A value of the width is its own low part. -/
theorem and_mask_of_lt {x : Word} {w : Nat} (fits : x.toNat < 2 ^ w) : x &&& mask w = x := by
  apply BitVec.eq_of_getLsbD_eq
  intro i hi
  rw [BitVec.getLsbD_and, getLsbD_mask, decide_eq_true hi, Bool.true_and]
  by_cases low : i < w
  · rw [decide_eq_true low, Bool.and_true]
  · rw [aligned_true_iff.mpr fits i (Nat.le_of_not_lt low), Bool.false_and]

/-- Reflecting all 64 bits of the low `k` leaves them at the top; the shift brings them down (R102). -/
theorem reflect_eq_bitRev64_shiftRight (x : Word) {k : Nat} (hk : k ≤ 64) :
    reflect x k = bitRev64 (x &&& mask k) >>> (64 - k) := by
  apply BitVec.eq_of_getLsbD_eq
  intro i _
  rw [getLsbD_reflect x hk, BitVec.getLsbD_ushiftRight, getLsbD_bitRev64, BitVec.getLsbD_and, getLsbD_mask]
  by_cases low : i < k
  · have source : 63 - (64 - k + i) = k - 1 - i := by omega
    simp [source, low, show 64 - k + i < 64 by omega, show k - 1 - i < 64 by omega, show k - 1 - i < k by omega]
  · simp [low, show ¬64 - k + i < 64 by omega]

/-- The shift may come first: what it pushes out is above the low `k` bits (R103 law 6). -/
theorem bitRev64_shiftLeft (x : Word) {k : Nat} (hk : k ≤ 64) : bitRev64 (x <<< (64 - k)) = reflect x k := by
  apply BitVec.eq_of_getLsbD_eq
  intro i hi
  rw [getLsbD_bitRev64, BitVec.getLsbD_shiftLeft, getLsbD_reflect x hk]
  by_cases low : i < k
  · have source : 63 - i - (64 - k) = k - 1 - i := by omega
    simp [source, hi, low, show 63 - i < 64 by omega, show ¬63 - i < 64 - k by omega]
  · simp [low, show 63 - i < 64 - k by omega]

/-- R103 law 2. -/
theorem bitRev64_bitRev64 (x : Word) : bitRev64 (bitRev64 x) = x := by
  apply BitVec.eq_of_getLsbD_eq
  intro i hi
  have back : 63 - (63 - i) = i := by omega
  rw [getLsbD_bitRev64, getLsbD_bitRev64, back, decide_eq_true hi, decide_eq_true (show 63 - i < 64 by omega),
    Bool.true_and, Bool.true_and]

/-- R103 law 3. -/
theorem reflect_reflect (x : Word) {k : Nat} (hk : k ≤ 64) : reflect (reflect x k) k = x &&& mask k := by
  apply BitVec.eq_of_getLsbD_eq
  intro i hi
  rw [getLsbD_reflect _ hk, getLsbD_reflect x hk, BitVec.getLsbD_and, getLsbD_mask]
  by_cases low : i < k
  · have back : k - 1 - (k - 1 - i) = i := by omega
    simp [back, hi, low, show k - 1 - i < k by omega]
  · simp [low]

/-- R103 law 7. -/
theorem reflect_xor (x y : Word) {k : Nat} (hk : k ≤ 64) : reflect (x ^^^ y) k = reflect x k ^^^ reflect y k := by
  apply BitVec.eq_of_getLsbD_eq
  intro i _
  simp only [BitVec.getLsbD_xor, getLsbD_reflect _ hk, Bool.and_xor_distrib_left]

/-- R103 law 4. -/
theorem reflect_lt (x : Word) (k : Nat) : (reflect x k).toNat < 2 ^ k :=
  aligned_true_iff.mp (aligned_reflect x k)

/-- Settles O35: each law from the bits of the two sides, law 5 from the form of R102 with a mask that takes nothing off. -/
theorem reflectionLaws : Obligations.ReflectionLaws := by
  intro x y k _ hk
  refine ⟨rfl, bitRev64_bitRev64 x, reflect_reflect x hk, reflect_lt x k, fun fits => ?_, fun _ => bitRev64_shiftLeft x hk,
    reflect_xor x y hk⟩
  rw [reflect_eq_bitRev64_shiftRight x hk, and_mask_of_lt fits]

/-- Settles O34: the bits of the two loops, and R102's other form of the second. -/
theorem reflectionMovesEachBit : Obligations.ReflectionMovesEachBit := by
  refine ⟨fun x i hi => ?_, fun x k i _ hk hi => ?_, fun x k i _ _ hi => aligned_reflect x k i hi,
    fun x k _ hk => reflect_eq_bitRev64_shiftRight x hk⟩
  · rw [getLsbD_bitRev64, decide_eq_true hi, Bool.true_and]
  · rw [getLsbD_reflect x hk, decide_eq_true hi, Bool.true_and]

/-- `OP` alone selects the row, and the row's fixed bits then decide (R75). -/
theorem decode_of_opField {b : Beat} {n : Nat} {row : OpRow} (hop : (opField b.word).toNat = n)
    (hrow : opcodeTable[n]? = some row) :
    decode b = if b.word &&& row.mask = row.pattern then instrOfRow b n else none := by
  subst hop
  rw [decode, hrow]

theorem widthLegal_eq_false_iff {w : BitVec 7} : widthLegal w = false ↔ w.toNat = 0 ∨ 65 ≤ w.toNat := by
  rw [← Bool.not_eq_true, widthLegal_iff]
  omega

theorem exec_reflect_of_legal {w : BitVec 7} (hw : widthLegal w = true) (v : Word) (s : State) :
    exec (.reflect w v) s = .next (respond statusOk (reflect v w.toNat) s) :=
  if_pos hw

/-- The one error of REFLECT (R204). -/
theorem exec_reflect_of_not_legal {w : BitVec 7} (hw : widthLegal w = false) (v : Word) (s : State) :
    exec (.reflect w v) s = .next (raise .invalidParameter s) :=
  if_neg (ne_true_of_eq_false hw)

/-- Settles O29: the row of `OP` 0xA, and the two branches on the width. -/
theorem reflectReturnsTheReflectedWord : Obligations.ReflectReturnsTheReflectedWord :=
  ⟨fun _ hop => decode_of_opField (congrArg BitVec.toNat hop) rfl,
    fun _ v s lo hi => exec_reflect_of_legal (widthLegal_iff.mpr ⟨lo, hi⟩) v s,
    fun _ v s outside => exec_reflect_of_not_legal (widthLegal_eq_false_iff.mpr outside) v s⟩

end Sys2Proof.Machine

/-! SUPPORT. The table builder (R120 to R124): one iteration of either loop is linear, so 8 iterations are, and so is the entry
in its index. -/

namespace Sys2Proof.Machine

/-- The exclusive-or of a loop's iteration, made when the bit shifted out is 1, is linear in the bit and the word together. -/
theorem ite_xor_xor (a b : Bool) (x y p : Word) :
    (if (a ^^ b) = true then (x ^^^ y) ^^^ p else x ^^^ y) =
      (if a = true then x ^^^ p else x) ^^^ (if b = true then y ^^^ p else y) := by
  cases a <;> cases b
  case false.false => rfl
  case false.true => exact BitVec.xor_assoc x y p
  case true.false =>
    change x ^^^ y ^^^ p = x ^^^ p ^^^ y
    ac_rfl
  case true.true =>
    calc x ^^^ y = x ^^^ y ^^^ (p ^^^ p) := by rw [BitVec.xor_self, BitVec.xor_zero]
      _ = (x ^^^ p) ^^^ (y ^^^ p) := by ac_rfl

/-- One iteration of R121 is linear. -/
theorem reflectedStep_semiconj_xor (rp : Word) : Function.Semiconj₂ (reflectedStep rp) (· ^^^ ·) (· ^^^ ·) := by
  intro c d
  simp only [reflectedStep, BitVec.getLsbD_xor, BitVec.ushiftRight_xor_distrib]
  exact ite_xor_xor _ _ _ _ rp

/-- One iteration of R122 is linear. -/
theorem alignedStep_semiconj_xor (ap : Word) : Function.Semiconj₂ (alignedStep ap) (· ^^^ ·) (· ^^^ ·) := by
  intro c d
  simp only [alignedStep, BitVec.getLsbD_xor, BitVec.shiftLeft_xor_distrib]
  exact ite_xor_xor _ _ _ _ ap

theorem reflectedEntry_xor (rp : Word) (i j : Nat) :
    reflectedEntry rp (i ^^^ j) = reflectedEntry rp i ^^^ reflectedEntry rp j := by
  simp only [reflectedEntry, BitVec.ofNat_xor]
  exact (reflectedStep_semiconj_xor rp).iterate 8 _ _

theorem alignedEntry_xor (ap : Word) (i j : Nat) :
    alignedEntry ap (i ^^^ j) = alignedEntry ap i ^^^ alignedEntry ap j := by
  simp only [alignedEntry, BitVec.ofNat_xor, BitVec.shiftLeft_xor_distrib]
  exact (alignedStep_semiconj_xor ap).iterate 8 _ _

/-- R124 item 2 for the entries as built, whatever the polynomial. -/
theorem builtEntry_xor (w : Nat) (p : Word) (ri : Bool) (i j : Nat) :
    builtEntry w p ri (i ^^^ j) = builtEntry w p ri i ^^^ builtEntry w p ri j := by
  cases ri with
  | false => exact alignedEntry_xor (p <<< (64 - w)) i j
  | true => exact reflectedEntry_xor (reflect p w) i j

/-- R124 item 1: by linearity entry 0 is its own exclusive-or with itself. -/
theorem builtEntry_zero (w : Nat) (p : Word) (ri : Bool) : builtEntry w p ri 0 = 0 :=
  (builtEntry_xor w p ri 0 0).trans BitVec.xor_self

/-- A single 1 above bit 0 moves down one bit (R121). -/
theorem reflectedStep_twoPow_succ (rp : Word) {n : Nat} (hn : n + 1 < 64) :
    reflectedStep rp (BitVec.twoPow 64 (n + 1)) = BitVec.twoPow 64 n := by
  have clear : (BitVec.twoPow 64 (n + 1)).getLsbD 0 = false := by simp
  rw [reflectedStep, clear, if_neg Bool.false_ne_true]
  apply BitVec.eq_of_getLsbD_eq
  intro k _
  simp [hn, show n < 64 by omega, Nat.add_comm 1 k]

/-- The 1 shifted out of bit 0 leaves the polynomial (R121). -/
theorem reflectedStep_one (rp : Word) : reflectedStep rp 1 = rp :=
  (if_pos rfl).trans BitVec.zero_xor

/-- The 1 at bit `n` reaches bit 0 after `n` iterations. -/
theorem reflectedStep_iterate_twoPow (rp : Word) (n : Nat) (hn : n < 64) :
    (reflectedStep rp)^[n] (BitVec.twoPow 64 n) = 1 := by
  induction n with
  | zero => rfl
  | succ n ih =>
    rw [Function.iterate_succ_apply, reflectedStep_twoPow_succ rp hn]
    exact ih (Nat.lt_of_succ_lt hn)

/-- R124 item 3: the 1 of index 128 reaches bit 0 after 7 iterations, and the 8th shifts it out. -/
theorem reflectedEntry_128 (rp : Word) : reflectedEntry rp 128 = rp := by
  have start : BitVec.ofNat 64 128 = BitVec.twoPow 64 7 := rfl
  rw [reflectedEntry, start, Function.iterate_succ_apply', reflectedStep_iterate_twoPow rp 7 (by decide),
    reflectedStep_one]

/-- A single 1 below bit 63 moves up one bit (R122). -/
theorem alignedStep_twoPow {k : Nat} (ap : Word) (hk : k < 63) :
    alignedStep ap (BitVec.twoPow 64 k) = BitVec.twoPow 64 (k + 1) := by
  have clear : (BitVec.twoPow 64 k).getLsbD 63 = false := by simp [hk.ne']
  rw [alignedStep, clear, if_neg Bool.false_ne_true, BitVec.twoPow_eq, BitVec.twoPow_eq, BitVec.shiftLeft_add]

/-- The 1 shifted out of bit 63 leaves the polynomial (R122). -/
theorem alignedStep_twoPow_63 (ap : Word) : alignedStep ap (BitVec.twoPow 64 63) = ap :=
  (if_pos rfl).trans BitVec.zero_xor

/-- The 1 at bit `k` reaches bit `k + n` after `n` iterations. -/
theorem alignedStep_iterate_twoPow (ap : Word) (n : Nat) {k : Nat} (h : k + n ≤ 63) :
    (alignedStep ap)^[n] (BitVec.twoPow 64 k) = BitVec.twoPow 64 (k + n) := by
  induction n with
  | zero => rfl
  | succ n ih => rw [Function.iterate_succ_apply', ih (by omega), alignedStep_twoPow ap (by omega), Nat.add_assoc]

/-- R124 item 4: the 1 of index 1 reaches bit 63 after 7 iterations, and the 8th shifts it out. -/
theorem alignedEntry_one (ap : Word) : alignedEntry ap 1 = ap := by
  have start : BitVec.ofNat 64 1 <<< 56 = BitVec.twoPow 64 56 := (BitVec.twoPow_eq 64 56).symm
  rw [alignedEntry, start, Function.iterate_succ_apply', alignedStep_iterate_twoPow ap 7 (by decide),
    alignedStep_twoPow_63]

/-- Settles O36: the entries of a built table are linear in their index, and the two basis entries are the polynomial. -/
theorem tableLaws : Obligations.TableLaws := by
  intro w p ri _ _ _
  simp only [tableEntryAt_buildTable, BitVec.toNat_xor]
  exact ⟨builtEntry_zero w p ri, fun i j => builtEntry_xor w p ri i.toNat j.toNat, reflectedEntry_128 (reflect p w),
    alignedEntry_one (p <<< (64 - w))⟩

/-- Settles O37: an entry as built is aligned on either path. -/
theorem tableEntriesStayInTheirField : Obligations.TableEntriesStayInTheirField := by
  intro w p i _ _ _
  simp only [tableEntryAt_buildTable]
  exact ⟨aligned_true_iff.mp (builtEntry_aligned w p true i), aligned_false_iff.mp (builtEntry_aligned w p false i)⟩

/-- A configured core goes on to the command's own result (R203). -/
theorem whenConfigured_of_configured {s : State} (h : s.configured = true) (r : State) : whenConfigured s r = r :=
  if_pos h

/-- TBLRD of a configured core (R126). -/
theorem exec_tblrd_of_configured {s : State} (h : s.configured = true) (i : BitVec 8) :
    exec (.tblrd i) s = .next (respond statusOk (tableEntryAt s.table i) s) :=
  congrArg _ (whenConfigured_of_configured h _)

/-- Settles O28: the row of `OP` 0x9, and the two branches on `CONFIGURED`. -/
theorem tblrdReturnsTheRawEntry : Obligations.TblrdReturnsTheRawEntry :=
  ⟨fun _ hop => decode_of_opField (congrArg BitVec.toNat hop) rfl,
    fun i _ configured => exec_tblrd_of_configured configured i,
    fun _ _ unconfigured => exec_of_not_configured rfl unconfigured⟩

end Sys2Proof.Machine

/-! SUPPORT. NOP, the staging writes and CONFIG (R140 to R144): a row that leaves no bit free is one word, and CONFIG has one
equation for a legal width and one for any other. -/

namespace Sys2Proof.Machine

/-- Where a row fixes all 32 bits, its pattern is the only word of its `OP` that is a command (formats N and D of R72). -/
theorem decode_of_opField_of_mask_allOnes {b : Beat} {n : Nat} {row : OpRow} (hop : (opField b.word).toNat = n)
    (hrow : opcodeTable[n]? = some row) (allFixed : row.mask = BitVec.allOnes 32) :
    decode b = if b.word = row.pattern then instrOfRow b n else none := by
  rw [decode_of_opField hop hrow]
  simp only [allFixed, BitVec.and_allOnes]

/-- Settles O21: the row of `OP` 0x0 is one word, and NOP only responds. -/
theorem nopAnswersAndChangesNothing : Obligations.NopAnswersAndChangesNothing :=
  ⟨fun _ hop => decode_of_opField_of_mask_allOnes (congrArg BitVec.toNat hop) rfl rfl, fun _ => rfl⟩

/-- Settles O22: the rows of `OP` 0x1 to 0x3 are one word each, and no staging write has a condition. -/
theorem stagingWritesLoadTheirRegister : Obligations.StagingWritesLoadTheirRegister :=
  ⟨fun _ hop => decode_of_opField_of_mask_allOnes (congrArg BitVec.toNat hop) rfl rfl,
    fun _ hop => decode_of_opField_of_mask_allOnes (congrArg BitVec.toNat hop) rfl rfl,
    fun _ hop => decode_of_opField_of_mask_allOnes (congrArg BitVec.toNat hop) rfl rfl,
    fun _ _ => ⟨rfl, rfl, rfl⟩⟩

theorem exec_config_of_legal {w : BitVec 7} (hw : widthLegal w = true) (ri ro : Bool) (s : State) :
    exec (.config w ri ro) s = .next (respond statusOk 0 (latch w ri ro s)) :=
  if_pos hw

/-- The one error of CONFIG (R204): nothing is latched. -/
theorem exec_config_of_not_legal {w : BitVec 7} (hw : widthLegal w = false) (ri ro : Bool) (s : State) :
    exec (.config w ri ro) s = .next (raise .invalidParameter s) :=
  if_neg (ne_true_of_eq_false hw)

/-- Settles O23: the row of `OP` 0x4, and the two branches on the width. -/
theorem configLatchesBuildsAndResets : Obligations.ConfigLatchesBuildsAndResets :=
  ⟨fun _ hop => decode_of_opField (congrArg BitVec.toNat hop) rfl,
    fun _ ri ro s lo hi => exec_config_of_legal (widthLegal_iff.mpr ⟨lo, hi⟩) ri ro s,
    fun _ ri ro s outside => exec_config_of_not_legal (widthLegal_eq_false_iff.mpr outside) ri ro s⟩

end Sys2Proof.Machine

/-! SUPPORT. RESET, UPDATE and UPDATER (R163 to R165): one equation per outcome. -/

namespace Sys2Proof.Machine

/-- RESET of a configured core (R163). -/
theorem exec_reset_of_configured {s : State} (h : s.configured = true) :
    exec .reset s = .next (respond statusOk 0 { s with crc := initialCrc s.cfgWidth.toNat s.cfgInit s.cfgRefIn }) :=
  congrArg _ (whenConfigured_of_configured h _)

/-- UPDATE of a configured core (R164). -/
theorem exec_update_of_configured {s : State} (h : s.configured = true) (b : Byte) :
    exec (.update b) s = .next (respond statusOk 0 { s with crc := stepByte s.table s.cfgRefIn s.crc b }) :=
  congrArg _ (whenConfigured_of_configured h _)

/-- Settles O24: the row of `OP` 0x5 is one word, and the two branches on `CONFIGURED`. -/
theorem resetCommandRestoresTheSessionStart : Obligations.ResetCommandRestoresTheSessionStart :=
  ⟨fun _ hop => decode_of_opField_of_mask_allOnes (congrArg BitVec.toNat hop) rfl rfl,
    fun _ configured => exec_reset_of_configured configured,
    fun _ unconfigured => exec_of_not_configured rfl unconfigured⟩

/-- Settles O25: the row of `OP` 0x6, and the two branches on `CONFIGURED`. -/
theorem updateConsumesOneByte : Obligations.UpdateConsumesOneByte :=
  ⟨fun _ hop => decode_of_opField (congrArg BitVec.toNat hop) rfl,
    fun b _ configured => exec_update_of_configured configured b,
    fun _ _ unconfigured => exec_of_not_configured rfl unconfigured⟩

/-- The range check is the exact sum (R165, R205). -/
theorem rangeLegal_iff {o l : BitVec 32} {len : BitVec 33} :
    rangeLegal o l len = true ↔ o.toNat + l.toNat ≤ len.toNat :=
  decide_eq_true_iff

/-- A byte that is not raced is the host buffer's (R62). -/
theorem consumedBytes_getElem?_of_not_raced {s : State} {offset n j : Nat} (hj : j < n)
    (sameLength : s.lenChanged = false) (untouched : offset + j ∉ s.touched) :
    (consumedBytes s offset n)[j]? = some (hbufRead s (offset + j)) := by
  simp [consumedBytes, consumedByte, raced, hj, sameLength, untouched]

/-- Settles O26: the row of `OP` 0x7 is one word, the bytes are those the model consumes, and the three outcomes. -/
theorem updaterConsumesItsRange : Obligations.UpdaterConsumesItsRange := by
  refine ⟨fun _ hop => decode_of_opField_of_mask_allOnes (congrArg BitVec.toNat hop) rfl rfl,
    fun o l s configured within => ?_, fun o l s configured beyond => ?_,
    fun _ _ _ unconfigured => exec_of_not_configured rfl unconfigured⟩
  · exact ⟨consumedBytes s o.toNat l.toNat, consumedBytes_length s _ _,
      fun _ hj sameLength untouched => consumedBytes_getElem?_of_not_raced hj sameLength untouched,
      exec_updater_of_legal configured (rangeLegal_iff.mpr within)⟩
  · exact exec_updater_of_not_legal configured (mt rangeLegal_iff.mp (Nat.not_le.mpr beyond))

end Sys2Proof.Machine

/-! SUPPORT. `StepByte` (R162): the table entry each path reads, and a list of input commands as the bytes it feeds (R166). -/

namespace Sys2Proof.Machine

/-- The low byte of an exclusive-or with a byte. -/
theorem low_byte_xor (x : Word) (b : Byte) : ((x ^^^ b.setWidth 64) &&& 0xFF#64).setWidth 8 = x.setWidth 8 ^^^ b := by
  have low : (0xFF#64).setWidth 8 = BitVec.allOnes 8 := rfl
  rw [BitVec.setWidth_and, low, BitVec.and_allOnes, BitVec.setWidth_xor, BitVec.setWidth_setWidth_of_le _ (by decide),
    BitVec.setWidth_eq]

/-- The reflected path reads the entry of the register's low byte. -/
theorem stepByte_true (t : Vector Word 256) (c : Word) (b : Byte) :
    stepByte t true c b = (c >>> 8) ^^^ tableEntryAt t (c.setWidth 8 ^^^ b) := by
  rw [stepByte, if_pos rfl, low_byte_xor]

/-- The unreflected path reads the entry of the register's top byte. -/
theorem stepByte_false (t : Vector Word 256) (c : Word) (b : Byte) :
    stepByte t false c b = (c <<< 8) ^^^ tableEntryAt t ((c >>> 56).setWidth 8 ^^^ b) := by
  rw [stepByte, if_neg Bool.false_ne_true, low_byte_xor]

/-- The low byte in numbers. -/
theorem setWidth_eight_eq_ofNat_mod (x : Word) : x.setWidth 8 = BitVec.ofNat 8 (x.toNat % 256) :=
  BitVec.eq_of_toNat_eq (Nat.mod_mod x.toNat 256).symm

/-- The top byte in numbers. -/
theorem setWidth_eight_top (x : Word) : (x >>> 56).setWidth 8 = BitVec.ofNat 8 (x.toNat / 2 ^ 56) := by
  rw [← BitVec.ofNat_toNat, BitVec.toNat_ushiftRight, Nat.shiftRight_eq_div_pow]

/-- Settles O38: each path's index in numbers, and the alignment of a built table's entries. -/
theorem stepByteReadsItsEntryAndKeepsTheConvention : Obligations.StepByteReadsItsEntryAndKeepsTheConvention := by
  have entries (w : Nat) (p : Word) (ri : Bool) (i : BitVec 8) : Aligned ri w (tableEntryAt (buildTable w p ri) i) :=
    tableEntryAt_buildTable w p ri i ▸ builtEntry_aligned w p ri i
  refine ⟨fun t c b => ⟨?_, ?_⟩, fun w p c b _ _ _ => ⟨fun low => ?_, fun high => ?_⟩⟩
  · rw [stepByte_true, setWidth_eight_eq_ofNat_mod]
  · rw [stepByte_false, setWidth_eight_top]
  · exact aligned_true_iff.mp (stepByte_aligned (entries w p true) (aligned_true_iff.mpr low) b)
  · exact aligned_false_iff.mp (stepByte_aligned (entries w p false) (aligned_false_iff.mpr high) b)

/-- An input command of a configured core with a quiet host feeds its bytes to the register, and changes nothing else that a
later input command reads. -/
theorem exec_input {s : State} {i : Instr} (hc : s.configured = true) (quiet : QuietHost s) (input : isInput s i = true) :
    ∃ d : Nat, exec i s = .next (respond statusOk 0
      { s with crc := stepBytes s.table s.cfgRefIn s.crc (inputBytes s i), draws := d }) := by
  cases i
  case update b => exact ⟨s.draws, exec_update_of_configured hc b⟩
  case updater o l =>
    refine ⟨s.draws + l.toNat, ?_⟩
    rw [exec_updater_of_legal hc input, consumedBytes_of_quiet quiet, inputBytes]
  all_goals cases input

/-- A list of commands by its first. -/
theorem execAll_cons {i : Instr} {s t : State} (h : exec i s = .next t) (rest : List Instr) :
    execAll (i :: rest) s = execAll rest t := by
  rw [execAll, h]

/-- A list of input commands feeds the bytes of all of them, in order (R166). -/
theorem execAll_inputs (commands : List Instr) {s : State} (hc : s.configured = true) (quiet : QuietHost s)
    (inputs : commands.all (isInput s) = true) :
    ∃ t : State, execAll commands s = .next t ∧
      t.crc = stepBytes s.table s.cfgRefIn s.crc (commands.flatMap (inputBytes s)) := by
  induction commands generalizing s with
  | nil => exact ⟨s, rfl, rfl⟩
  | cons i rest ih =>
    rw [List.all_cons, Bool.and_eq_true] at inputs
    obtain ⟨d, runs⟩ := exec_input hc quiet inputs.1
    obtain ⟨t, ht, crc⟩ := ih (s := respond statusOk 0 { s with
      crc := stepBytes s.table s.cfgRefIn s.crc (inputBytes s i), draws := d }) hc quiet inputs.2
    refine ⟨t, (execAll_cons runs rest).trans ht, crc.trans ?_⟩
    rw [List.flatMap_cons, stepBytes_append]
    rfl

/-- Settles O39: the register depends on the bytes in order only. -/
theorem anyMixOfUpdatesEqualsOneUpdater : Obligations.AnyMixOfUpdatesEqualsOneUpdater := by
  intro s commands o l hc quiet inputs within sameBytes
  obtain ⟨t, ht, crc⟩ := execAll_inputs commands hc quiet inputs
  obtain ⟨d, hu⟩ := exec_input (i := .updater o l) hc quiet within
  exact ⟨t, _, ht, hu, sameBytes ▸ crc⟩

end Sys2Proof.Machine

/-! SUPPORT. What the loops of R121 and R122 need of the two reflections: shifts within the width, bit 0, and the unreflected
loop as the reflected one on reversed words. -/

namespace Sys2Proof.Machine

/-- Bits above the width are not reflected (R102). -/
theorem reflect_and_mask (x : Word) {k : Nat} (hk : k ≤ 64) : reflect (x &&& mask k) k = reflect x k := by
  rw [reflect_eq_bitRev64_shiftRight _ hk, reflect_eq_bitRev64_shiftRight x hk, BitVec.and_assoc, BitVec.and_self]

/-- A shift towards the top within the width is, reflected, a shift towards bit 0. -/
theorem reflect_shiftLeft_one (x : Word) {k : Nat} (hk : k ≤ 64) : reflect (x <<< 1) k = reflect x k >>> 1 := by
  apply BitVec.eq_of_getLsbD_eq
  intro i _
  rw [getLsbD_reflect _ hk, BitVec.getLsbD_ushiftRight, getLsbD_reflect x hk, BitVec.getLsbD_shiftLeft]
  by_cases low : 1 + i < k
  · have source : k - 1 - i - 1 = k - 1 - (1 + i) := by omega
    simp [source, low, show i < k by omega, show k - 1 - i < 64 by omega, show k - 1 - i ≠ 0 by omega]
  · simp [low, show k - 1 - i = 0 by omega]

/-- Shifting out the first bit of a reflected value leaves its other bits reflected. -/
theorem reflect_succ_shiftRight_one (x : Word) {n : Nat} (hn : n + 1 ≤ 64) : reflect x (n + 1) >>> 1 = reflect x n := by
  apply BitVec.eq_of_getLsbD_eq
  intro i _
  have source : n - (1 + i) = n - 1 - i := by omega
  have below : 1 + i < n + 1 ↔ i < n := by omega
  simp [getLsbD_reflect _ hn, getLsbD_reflect x (Nat.le_of_succ_le hn), source, below]

/-- The top bit of the width comes to bit 0. -/
theorem getLsbD_reflect_zero (x : Word) {k : Nat} (hk : k ≤ 64) (hpos : 0 < k) :
    (reflect x k).getLsbD 0 = x.getLsbD (k - 1) := by
  rw [getLsbD_reflect x hk, decide_eq_true hpos, Bool.true_and, Nat.sub_zero]

theorem bitRev64_xor (x y : Word) : bitRev64 (x ^^^ y) = bitRev64 x ^^^ bitRev64 y := by
  apply BitVec.eq_of_getLsbD_eq
  intro i _
  simp only [BitVec.getLsbD_xor, getLsbD_bitRev64, Bool.and_xor_distrib_left]

theorem bitRev64_shiftRight (x : Word) (n : Nat) : bitRev64 (x >>> n) = bitRev64 x <<< n := by
  apply BitVec.eq_of_getLsbD_eq
  intro i hi
  rw [getLsbD_bitRev64, BitVec.getLsbD_ushiftRight, BitVec.getLsbD_shiftLeft, getLsbD_bitRev64]
  by_cases low : i < n
  · simp [low, BitVec.getLsbD_of_ge x (n + (63 - i)) (by omega)]
  · have source : n + (63 - i) = 63 - (i - n) := by omega
    simp [source, hi, low, show i - n < 64 by omega]

/-- Reversing a reflected value leaves the value at the top of the word. -/
theorem bitRev64_reflect (x : Word) {k : Nat} (hk : k ≤ 64) : bitRev64 (reflect x k) = x <<< (64 - k) := by
  rw [← bitRev64_shiftLeft x hk, bitRev64_bitRev64]

/-- The low end of the reversed register, reflected back. -/
theorem reflect_bitRev64 (x : Word) {k : Nat} (hk : k ≤ 64) : reflect (bitRev64 x) k = x >>> (64 - k) := by
  rw [← bitRev64_shiftLeft _ hk, ← bitRev64_shiftRight, bitRev64_bitRev64]

/-- An iteration of R122 is one of R121 on the reversed words. -/
theorem bitRev64_reflectedStep (rp c : Word) : bitRev64 (reflectedStep rp c) = alignedStep (bitRev64 rp) (bitRev64 c) := by
  have out : (bitRev64 c).getLsbD 63 = c.getLsbD 0 := getLsbD_bitRev64 c 63
  rw [reflectedStep, alignedStep, out]
  split
  · rw [bitRev64_xor, bitRev64_shiftRight]
  · exact bitRev64_shiftRight c 1

/-- So are `n` of them, with the polynomial where each path has it. -/
theorem bitRev64_reflectedStep_iterate {w : Nat} (hw' : w ≤ 64) (p c : Word) (n : Nat) :
    bitRev64 ((reflectedStep (reflect p w))^[n] c) = (alignedStep (p <<< (64 - w)))^[n] (bitRev64 c) := by
  rw [← bitRev64_reflect p hw']
  exact Function.Semiconj.iterate_right (bitRev64_reflectedStep (reflect p w)) n c

end Sys2Proof.Machine

/-! SUPPORT. The engine is the bit-by-bit reference (R167). The reflected loop, with the input bits waiting in the low end of the
register, takes one of them per iteration as the reference does; `StepByte` is 8 iterations made at once, on the unreflected
path of the reversed words. `initialCrc w reg ri` is a register value `reg` of the reference in the engine's alignment (R160,
R161). -/

namespace Sys2Proof.Machine

/-- One iteration of the reflected loop, with input bits waiting in the low end, takes the first of them as the reference
does. -/
theorem reflectedStep_refBit {w n : Nat} (hw : 1 ≤ w) (hw' : w ≤ 64) (hn : n + 1 ≤ 64) (p reg v : Word) :
    reflectedStep (reflect p w) (reflect reg w ^^^ reflect v (n + 1)) =
      reflect (refBit w p reg (v.getLsbD n)) w ^^^ reflect v n := by
  have out : (reflect reg w ^^^ reflect v (n + 1)).getLsbD 0 = (reg.getLsbD (w - 1) ^^ v.getLsbD n) := by
    rw [BitVec.getLsbD_xor, getLsbD_reflect_zero reg hw' hw, getLsbD_reflect_zero v hn (Nat.le_add_left 1 n),
      Nat.add_sub_cancel]
  have shifted : (reflect reg w ^^^ reflect v (n + 1)) >>> 1 = reflect ((reg <<< 1) &&& mask w) w ^^^ reflect v n := by
    rw [BitVec.ushiftRight_xor_distrib, reflect_succ_shiftRight_one v hn, reflect_and_mask _ hw',
      reflect_shiftLeft_one reg hw']
  rw [reflectedStep, refBit, out, shifted]
  cases reg.getLsbD (w - 1) ^^ v.getLsbD n
  · rfl
  · simp only [if_true]
    rw [reflect_xor _ _ hw', reflect_and_mask p hw']
    ac_rfl

/-- The reference's register after the bits `n - 1` down to 0 of `v`. -/
def refBits (w : Nat) (p reg v : Word) (n : Nat) : Word :=
  (List.range n).reverse.foldl (fun r k => refBit w p r (v.getLsbD k)) reg

/-- The bits come from the top one down. -/
theorem refBits_succ (w : Nat) (p reg v : Word) (n : Nat) :
    refBits w p reg v (n + 1) = refBits w p (refBit w p reg (v.getLsbD n)) v n := by
  simp [refBits, List.range_succ]

/-- A byte is its 8 bits, reflected first when `refIn = 1`. -/
theorem refByte_eq_refBits (w : Nat) (p : Word) (ri : Bool) (reg : Word) (b : Byte) :
    refByte w p ri reg b = refBits w p reg (if ri then reflect (b.setWidth 64) 8 else b.setWidth 64) 8 :=
  rfl

/-- As many iterations as there are bits consume them all: the loop is the reference, reflected. -/
theorem reflectedStep_iterate_refBits {w : Nat} (hw : 1 ≤ w) (hw' : w ≤ 64) (p reg v : Word) {n : Nat} (hn : n ≤ 64) :
    (reflectedStep (reflect p w))^[n] (reflect reg w ^^^ reflect v n) = reflect (refBits w p reg v n) w := by
  induction n generalizing reg with
  | zero => exact BitVec.xor_zero
  | succ n ih =>
    rw [Function.iterate_succ_apply, reflectedStep_refBit hw hw' hn, ih _ (Nat.le_of_succ_le hn), refBits_succ]

/-- The same for the 8 bits of a byte. -/
theorem reflectedStep_iterate_refByte {w : Nat} (hw : 1 ≤ w) (hw' : w ≤ 64) (p : Word) (ri : Bool) (reg : Word) (b : Byte) :
    (reflectedStep (reflect p w))^[8]
        (reflect reg w ^^^ reflect (if ri then reflect (b.setWidth 64) 8 else b.setWidth 64) 8) =
      reflect (refByte w p ri reg b) w := by
  rw [refByte_eq_refBits]
  exact reflectedStep_iterate_refBits hw hw' p reg _ (by decide)

/-- A word whose low `n` bits are 0 only moves down in `n` iterations (R121). -/
theorem reflectedStep_iterate_of_low_clear (rp : Word) (n : Nat) {x : Word} (clear : ∀ k < n, x.getLsbD k = false) :
    (reflectedStep rp)^[n] x = x >>> n := by
  induction n generalizing x with
  | zero => exact (BitVec.ushiftRight_zero x).symm
  | succ n ih =>
    have step : reflectedStep rp x = x >>> 1 := if_neg (ne_true_of_eq_false (clear 0 (Nat.succ_pos n)))
    rw [Function.iterate_succ_apply, step, ih, ← BitVec.shiftRight_add, Nat.add_comm]
    intro k hk
    rw [BitVec.getLsbD_ushiftRight]
    exact clear _ (by omega)

/-- What lies in the low `n` bits is shifted out. -/
theorem xor_shiftRight_of_lt (x : Word) {y : Word} {n : Nat} (low : y.toNat < 2 ^ n) : (x ^^^ y) >>> n = x >>> n := by
  have gone : y >>> n = 0#64 := BitVec.eq_of_toNat_eq (by
    rw [BitVec.toNat_ushiftRight, Nat.shiftRight_eq_div_pow, Nat.div_eq_of_lt low, BitVec.toNat_zero])
  rw [BitVec.ushiftRight_xor_distrib, gone, BitVec.xor_zero]

/-- Why a table works: the loop is linear, so `n` iterations shift the word and add what they make of its low `n` bits
alone. -/
theorem reflectedStep_iterate_split (rp x : Word) (n : Nat) :
    (reflectedStep rp)^[n] x = (x >>> n) ^^^ (reflectedStep rp)^[n] (x &&& mask n) := by
  have clear : ∀ k < n, (x ^^^ (x &&& mask n)).getLsbD k = false := by
    intro k hk
    rw [BitVec.getLsbD_xor, BitVec.getLsbD_and, getLsbD_mask]
    by_cases inside : k < 64
    · simp [hk, inside]
    · simp [BitVec.getLsbD_of_ge x k (Nat.le_of_not_lt inside)]
  calc (reflectedStep rp)^[n] x
      = (reflectedStep rp)^[n] ((x ^^^ (x &&& mask n)) ^^^ (x &&& mask n)) := by
        rw [BitVec.xor_assoc, BitVec.xor_self, BitVec.xor_zero]
    _ = (reflectedStep rp)^[n] (x ^^^ (x &&& mask n)) ^^^ (reflectedStep rp)^[n] (x &&& mask n) :=
        (reflectedStep_semiconj_xor rp).iterate n _ _
    _ = (x >>> n) ^^^ (reflectedStep rp)^[n] (x &&& mask n) := by
        rw [reflectedStep_iterate_of_low_clear rp n clear, xor_shiftRight_of_lt x (and_mask_lt x n)]

/-- The low byte of a register exclusive-or a byte, as the index of a table entry and as a word. -/
theorem zext_low_byte_xor (x : Word) (b : Byte) :
    BitVec.ofNat 64 (x.setWidth 8 ^^^ b).toNat = (x ^^^ b.setWidth 64) &&& mask 8 := by
  rw [BitVec.ofNat_toNat]
  apply BitVec.eq_of_getLsbD_eq
  intro i hi
  rw [BitVec.getLsbD_and, getLsbD_mask]
  by_cases low : i < 8
  · simp [low, hi]
  · simp [low, BitVec.getLsbD_of_ge b i (Nat.le_of_not_lt low)]

/-- A byte fills the low 8 bits only. -/
theorem byte_lt (b : Byte) : (b.setWidth 64).toNat < 2 ^ 8 :=
  (BitVec.toNat_setWidth_of_le (b := b) (by decide)).trans_lt b.isLt

/-- Two reflections of a byte are none (R103 law 3). -/
theorem reflect_reflect_byte (b : Byte) : reflect (reflect (b.setWidth 64) 8) 8 = b.setWidth 64 := by
  rw [reflect_reflect _ (by decide), and_mask_of_lt (byte_lt b)]

/-- The table of the reflected path makes 8 iterations of its loop at once. -/
theorem stepByte_buildTable_true (w : Nat) (p c : Word) (b : Byte) :
    stepByte (buildTable w p true) true c b = (reflectedStep (reflect p w))^[8] (c ^^^ b.setWidth 64) := by
  rw [stepByte_true, tableEntryAt_buildTable, builtEntry, if_pos rfl, reflectedEntry, zext_low_byte_xor,
    reflectedStep_iterate_split _ (c ^^^ b.setWidth 64), xor_shiftRight_of_lt c (byte_lt b)]

/-- The table of the unreflected path makes 8 iterations at once of the reversed loop on the reversed register. -/
theorem stepByte_buildTable_false {w : Nat} (hw' : w ≤ 64) (p c : Word) (b : Byte) :
    stepByte (buildTable w p false) false c b =
      bitRev64 ((reflectedStep (reflect p w))^[8] (bitRev64 c ^^^ reflect (b.setWidth 64) 8)) := by
  have low : (bitRev64 c ^^^ reflect (b.setWidth 64) 8) &&& mask 8 =
      reflect ((c >>> 56 ^^^ b.setWidth 64) &&& mask 8) 8 := by
    rw [reflect_and_mask _ (by decide), ← reflect_reflect _ (by decide), reflect_xor _ _ (by decide),
      reflect_bitRev64 c (by decide), reflect_reflect_byte]
  rw [stepByte_false, tableEntryAt_buildTable, builtEntry, if_neg Bool.false_ne_true, alignedEntry, zext_low_byte_xor,
    reflectedStep_iterate_split _ (bitRev64 c ^^^ _), xor_shiftRight_of_lt _ (reflect_lt _ 8), low, bitRev64_xor,
    bitRev64_shiftRight, bitRev64_bitRev64, bitRev64_reflectedStep_iterate hw', bitRev64_reflect _ (by decide)]

/-- One byte of the engine is one byte of the reference, in the engine's alignment (R162, R167). -/
theorem stepByte_initialCrc {w : Nat} (hw : 1 ≤ w) (hw' : w ≤ 64) (p reg : Word) (ri : Bool) (b : Byte) :
    stepByte (buildTable w p ri) ri (initialCrc w reg ri) b = initialCrc w (refByte w p ri reg b) ri := by
  cases ri with
  | true =>
    calc stepByte (buildTable w p true) true (reflect reg w) b
        = (reflectedStep (reflect p w))^[8] (reflect reg w ^^^ reflect (reflect (b.setWidth 64) 8) 8) := by
          rw [stepByte_buildTable_true, reflect_reflect_byte]
      _ = reflect (refByte w p true reg b) w := reflectedStep_iterate_refByte hw hw' p true reg b
  | false =>
    calc stepByte (buildTable w p false) false (reg <<< (64 - w)) b
        = bitRev64 ((reflectedStep (reflect p w))^[8] (reflect reg w ^^^ reflect (b.setWidth 64) 8)) := by
          rw [stepByte_buildTable_false hw', bitRev64_shiftLeft reg hw']
      _ = bitRev64 (reflect (refByte w p false reg b) w) :=
          congrArg bitRev64 (reflectedStep_iterate_refByte hw hw' p false reg b)
      _ = refByte w p false reg b <<< (64 - w) := bitRev64_reflect _ hw'

/-- So are any number of bytes. -/
theorem stepBytes_initialCrc {w : Nat} (hw : 1 ≤ w) (hw' : w ≤ 64) (p reg : Word) (ri : Bool) (bytes : List Byte) :
    stepBytes (buildTable w p ri) ri (initialCrc w reg ri) bytes = initialCrc w (bytes.foldl (refByte w p ri) reg) ri := by
  induction bytes generalizing reg with
  | nil => rfl
  | cons b rest ih =>
    rw [List.foldl_cons, ← ih, ← stepByte_initialCrc hw hw']
    rfl

end Sys2Proof.Machine

/-! SUPPORT. `CRC` tracks the reference's register through every move (R160 to R165, R167). -/

namespace Sys2Proof.Machine

/-- The reference keeps its register within the width. -/
theorem refBit_lt (w : Nat) (p reg : Word) (bit : Bool) : (refBit w p reg bit).toNat < 2 ^ w := by
  rw [refBit]
  split
  · exact xor_lt (and_mask_lt _ w) (and_mask_lt p w)
  · exact and_mask_lt _ w

/-- The last thing a byte does is a bit. -/
theorem refByte_lt (w : Nat) (p : Word) (ri : Bool) (reg : Word) (b : Byte) : (refByte w p ri reg b).toNat < 2 ^ w :=
  refBit_lt w p _ _

theorem referenceBytes_lt {s : State} {reg : Word} (fits : reg.toNat < 2 ^ s.cfgWidth.toNat) (bytes : List Byte) :
    (referenceBytes s reg bytes).toNat < 2 ^ s.cfgWidth.toNat := by
  induction bytes generalizing reg with
  | nil => exact fits
  | cons b rest ih => exact ih (refByte_lt _ _ _ reg b)

theorem tracksReference_of_not_configured {s : State} (h : s.configured = false) (reg : Word) : TracksReference reg s :=
  fun hc => by simp [h] at hc

/-- Bytes fed to the engine and to the reference keep the two together. -/
theorem TracksReference.feed {s : State} {reg : Word} (h : TracksReference reg s) (inv : RegisterInv s)
    (hc : s.configured = true) (bytes : List Byte) :
    TracksReference (referenceBytes s reg bytes) { s with crc := stepBytes s.table s.cfgRefIn s.crc bytes } := by
  intro _
  obtain ⟨fits, crc⟩ := h hc
  obtain ⟨hw, hw'⟩ := inv.width_legal hc
  exact ⟨referenceBytes_lt fits bytes, (congrArg₂ (stepBytes · s.cfgRefIn · bytes) (inv.table_built hc) crc).trans
    (stepBytes_initialCrc hw hw' s.cfgPoly reg s.cfgRefIn bytes)⟩

/-- A command that needs a configuration: without one there is nothing to track. -/
theorem whenConfigured_tracks {s r : State} {reg : Word} (h : s.configured = true → TracksReference reg r) :
    TracksReference reg (whenConfigured s r) := by
  rcases whenConfigured_cases s r with ⟨hc, e⟩ | ⟨hc, e⟩ <;> rw [e]
  · exact h hc
  · exact tracksReference_of_not_configured hc reg

/-- Every command moves `CRC` and the reference together; one that errs moves neither. -/
theorem exec_tracks {i : Instr} {s t : State} {reg : Word} (inv : RegisterInv s) (h : TracksReference reg s)
    (ht : exec i s = .next t) : TracksReference (referenceAfter s reg i) t := by
  cases i with
  | nop | setpoly | setinit | setxorout =>
    cases ht
    exact h
  | config w ri ro =>
    rw [referenceAfter]
    cases hw : widthLegal w with
    | true =>
      cases ht.symm.trans (exec_config_of_legal hw ri ro s)
      exact fun _ => ⟨and_mask_lt _ _, rfl⟩
    | false =>
      cases ht.symm.trans (exec_config_of_not_legal hw ri ro s)
      exact h
  | reflect w v =>
    cases hw : widthLegal w with
    | true =>
      cases ht.symm.trans (exec_reflect_of_legal hw v s)
      exact h
    | false =>
      cases ht.symm.trans (exec_reflect_of_not_legal hw v s)
      exact h
  | reset =>
    cases ht
    exact whenConfigured_tracks fun hc _ => ⟨inv.init_fits hc, rfl⟩
  | update b =>
    cases ht
    exact whenConfigured_tracks fun hc => h.feed inv hc [b]
  | updater o l =>
    cases ht
    refine whenConfigured_tracks fun hc => ?_
    rw [referenceAfter]
    split
    · exact h.feed inv hc _
    · exact h
  | getvalue | tblrd =>
    cases ht
    exact whenConfigured_tracks fun _ => h

/-- So does the core's turn, whatever word is outstanding. -/
theorem coreTurn_tracks {s t : State} {reg : Word} (inv : RegisterInv s) (h : TracksReference reg s)
    (ht : coreTurn exec s = .next t) : TracksReference (referenceAfterTurn s reg) t := by
  rw [referenceAfterTurn]
  rcases coreTurn_cases s with ⟨ho, idle⟩ | ⟨b, ho, hd, illegal⟩ | ⟨b, i, ho, hd, runs⟩
  · cases ht.symm.trans idle
    rw [ho]
    exact h
  · cases ht.symm.trans illegal
    rw [ho, Option.bind_some, hd]
    exact h
  · rw [ho, Option.bind_some, hd]
    exact exec_tracks inv h (runs.symm.trans ht)

/-- A move of the host does not touch the register, or resets the core. -/
theorem hostMove_tracks {m : Move} {s t : State} {reg : Word} (host : m ≠ .core) (h : TracksReference reg s)
    (ht : takeMove exec m s = .next t) : TracksReference reg t := by
  cases m with
  | core => exact absurd rfl host
  | present b =>
    cases ht
    rcases presentBeat_cases b s with e | e <;> rw [e] <;> exact h
  | writeByte i v =>
    cases ht
    exact h
  | setLength n =>
    rcases Nat.lt_or_ge Config.hbufMax n.toNat with above | within
    · cases ht.symm.trans (takeMove_setLength_of_lt exec s above)
    · cases ht.symm.trans (takeMove_setLength_of_le exec s within)
      exact h
  | driveReset level =>
    cases ht
    by_cases held : (level && s.rstN) = true
    · exact (driveRstN_of_held held).symm ▸ h
    · rw [driveRstN_of_not_held held]
      exact tracksReference_of_not_configured rfl reg

/-- Settles O53: the core's turn moves the register and the reference together, and no move of the host moves either. -/
theorem everyStepTracksTheBitByBitReference : Obligations.EveryStepTracksTheBitByBitReference := by
  intro s t reg inv h ht
  rw [referenceAfterStep]
  cases hs : s.schedule with
  | nil => exact coreTurn_tracks inv h (step_of_no_move hs ▸ ht)
  | cons m rest =>
    rw [step_of_move hs] at ht
    cases m with
    | core => exact coreTurn_tracks (s := { s with schedule := rest }) (inv.of_same_parameters rfl rfl) h ht
    | present | writeByte | setLength | driveReset =>
      exact hostMove_tracks (s := { s with schedule := rest }) (by simp) h ht

end Sys2Proof.Machine

/-! SUPPORT. The checksum of a session (R167): `Finalize` undoes the engine's alignment (R180), and a session runs from its
parameters to GETVALUE. -/

namespace Sys2Proof.Machine

/-- Reversing all 64 bits goes from either alignment to the other. -/
theorem bitRev64_initialCrc {w : Nat} (hw' : w ≤ 64) (reg : Word) (ri : Bool) :
    bitRev64 (initialCrc w reg ri) = initialCrc w reg !ri := by
  cases ri with
  | false => exact bitRev64_shiftLeft reg hw'
  | true => exact bitRev64_reflect reg hw'

/-- What the unreflected alignment pushes out is above the width. -/
theorem shiftLeft_shiftRight_and_mask (x : Word) {w : Nat} (hw' : w ≤ 64) :
    (x <<< (64 - w)) >>> (64 - w) &&& mask w = x &&& mask w := by
  apply BitVec.eq_of_getLsbD_eq
  intro i hi
  rw [BitVec.getLsbD_and, BitVec.getLsbD_and, getLsbD_mask, BitVec.getLsbD_ushiftRight, BitVec.getLsbD_shiftLeft]
  by_cases low : i < w
  · simp [low, hi, show 64 - w + i < 64 by omega]
  · simp [low]

/-- `Finalize` of the reference's register in the engine's alignment is the reference's own last step (R180, R167). -/
theorem finalize_initialCrc {w : Nat} (hw' : w ≤ 64) (ri ro : Bool) (x reg : Word) :
    finalize w ri ro x (initialCrc w reg ri) = ((if ro then reflect reg w else reg) ^^^ x) &&& mask w := by
  have aligned (y : Word) : (if ro = ri then initialCrc w reg ri ^^^ y else bitRev64 (initialCrc w reg ri) ^^^ y) =
      initialCrc w reg ro ^^^ y := by
    split
    · next same => rw [same]
    · next other => rw [bitRev64_initialCrc hw', Bool.eq_not_of_ne other]
  simp only [finalize, unmaskedChecksum, aligned]
  cases ro with
  | true => rfl
  | false =>
    simp only [initialCrc, Bool.false_eq_true, if_false]
    rw [← BitVec.shiftLeft_xor_distrib, shiftLeft_shiftRight_and_mask _ hw']

/-- `xorOut` counts within the width only. -/
theorem xor_and_mask_and_mask (r x : Word) (w : Nat) : (r ^^^ (x &&& mask w)) &&& mask w = (r ^^^ x) &&& mask w := by
  apply BitVec.eq_of_getLsbD_eq
  intro i _
  simp only [BitVec.getLsbD_and, BitVec.getLsbD_xor]
  cases (mask w).getLsbD i <;> simp

/-- The reference masks its polynomial itself. -/
theorem refByte_and_mask (w : Nat) (p : Word) (ri : Bool) : refByte w (p &&& mask w) ri = refByte w p ri := by
  have bit : refBit w (p &&& mask w) = refBit w p := by
    funext reg x
    rw [refBit, BitVec.and_assoc, BitVec.and_self, refBit]
  funext reg b
  rw [refByte, bit, refByte]

/-- GETVALUE of a configured core (R181). -/
theorem exec_getvalue_of_configured {s : State} (h : s.configured = true) :
    exec .getvalue s = .next (respond statusOk (checksum s) s) :=
  congrArg _ (whenConfigured_of_configured h _)

/-- UPDATE of each byte and GETVALUE answer the checksum of the register stepped over the bytes (R164, R181). -/
theorem execAll_updates_getvalue (bytes : List Byte) {s : State} (hc : s.configured = true) :
    ∃ t : State, execAll (bytes.map .update ++ [.getvalue]) s = .next t ∧ t.rspStatus = 0 ∧
      t.rspData = finalize s.cfgWidth.toNat s.cfgRefIn s.cfgRefOut s.cfgXorOut
        (stepBytes s.table s.cfgRefIn s.crc bytes) := by
  induction bytes generalizing s with
  | nil => exact ⟨_, execAll_cons (exec_getvalue_of_configured hc) [], rfl, rfl⟩
  | cons b rest ih =>
    obtain ⟨t, ht, answer⟩ := ih (s := respond statusOk 0 { s with crc := stepByte s.table s.cfgRefIn s.crc b }) hc
    exact ⟨t, (execAll_cons (exec_update_of_configured hc b) _).trans ht, answer⟩

/-- The state in which a CONFIG with new parameters has been answered. -/
def afterConfig (s : State) (w : BitVec 7) (poly init xorOut : Word) (ri ro : Bool) : State :=
  respond statusOk 0 (latch w ri ro (respond statusOk 0 { s with stgPoly := poly, stgInit := init, stgXorOut := xorOut }))

/-- The four commands that set the parameters (R144). -/
theorem execAll_parameters {w : BitVec 7} (hw : widthLegal w = true) (s : State) (poly init xorOut : Word) (ri ro : Bool)
    (rest : List Instr) :
    execAll (.setpoly poly :: .setinit init :: .setxorout xorOut :: .config w ri ro :: rest) s =
      execAll rest (afterConfig s w poly init xorOut ri ro) :=
  execAll_cons (exec_config_of_legal hw ri ro _) rest

/-- Settles O46: the session's bytes leave the reference's register in the engine's alignment, and `Finalize` makes of it what
the reference does. -/
theorem checksumEqualsTheBitByBitReference : Obligations.ChecksumEqualsTheBitByBitReference := by
  intro s w poly init xorOut ri ro bytes hw hw'
  obtain ⟨t, ht, ok, data⟩ := execAll_updates_getvalue bytes (s := afterConfig s w poly init xorOut ri ro) rfl
  refine ⟨t, (execAll_parameters (widthLegal_iff.mpr ⟨hw, hw'⟩) s poly init xorOut ri ro _).trans ht, ok, data.trans ?_⟩
  change finalize w.toNat ri ro (xorOut &&& mask w.toNat) (stepBytes (buildTable w.toNat (poly &&& mask w.toNat) ri) ri
    (initialCrc w.toNat (init &&& mask w.toNat) ri) bytes) = refCrc w.toNat poly init ri ro xorOut bytes
  rw [stepBytes_initialCrc hw hw', finalize_initialCrc hw', xor_and_mask_and_mask, refByte_and_mask, refCrc]

end Sys2Proof.Machine

/-! SUPPORT. Finalisation (R180 to R182). Every aligned register is `InitialCrc` of some value, so `finalize_initialCrc` is
`Finalize` of every register the engine can hold; and of an aligned one even the value before the mask is within the width. -/

namespace Sys2Proof.Machine

/-- The inverse of `InitialCrc` on the reflected path (R103 law 3). -/
theorem initialCrc_reflect {w : Nat} (hw' : w ≤ 64) {c : Word} (fits : c.toNat < 2 ^ w) :
    initialCrc w (reflect c w) true = c :=
  (reflect_reflect c hw').trans (and_mask_of_lt fits)

/-- The inverse of `InitialCrc` on the unreflected path: the shift down loses nothing of an aligned register. -/
theorem initialCrc_shiftRight {w : Nat} {c : Word} (aligned : Aligned false w c) :
    initialCrc w (c >>> (64 - w)) false = c := by
  change (c >>> (64 - w)) <<< (64 - w) = c
  apply BitVec.eq_of_getLsbD_eq
  intro k hk
  rw [BitVec.getLsbD_shiftLeft, BitVec.getLsbD_ushiftRight]
  by_cases low : k < 64 - w
  · simp [low, aligned k low]
  · simp [low, hk, Nat.add_sub_of_le (Nat.le_of_not_lt low)]

/-- Settles O43: the register is brought to the form of `finalize_initialCrc`, where the row is read off. -/
theorem finalizeByTheFourCases : Obligations.FinalizeByTheFourCases := by
  intro w x c _ hw' _
  refine ⟨fun fits => ?_, fun low => ?_⟩
  · have form (ro : Bool) := finalize_initialCrc hw' true ro x (reflect c w)
    rw [initialCrc_reflect hw' fits] at form
    have back : reflect (reflect c w) w = c := initialCrc_reflect hw' fits
    exact ⟨by rw [form true, if_pos rfl, back], form false⟩
  · have form (ro : Bool) := finalize_initialCrc hw' false ro x (c >>> (64 - w))
    rw [initialCrc_shiftRight (aligned_false_iff.mpr low)] at form
    exact ⟨form false, form true⟩

/-- Settles O44: `finalize_initialCrc` at the register before any byte, with a mask that takes nothing off. -/
theorem emptyInputChecksum : Obligations.EmptyInputChecksum := by
  intro w init x ri _ hw' initFits xFits
  exact ⟨(finalize_initialCrc hw' ri false x init).trans (and_mask_of_lt (xor_lt initFits xFits)),
    (finalize_initialCrc hw' ri true x init).trans (and_mask_of_lt (xor_lt (reflect_lt init w) xFits))⟩

/-- Reversing the word brings an unreflected register down into the width. -/
theorem bitRev64_aligned {w : Nat} (hw' : w ≤ 64) {c : Word} (aligned : Aligned false w c) : Aligned true w (bitRev64 c) := by
  rw [← initialCrc_shiftRight aligned, bitRev64_initialCrc hw']
  exact initialCrc_aligned w _ true

/-- What a shift by `64 - w` leaves is within the width. -/
theorem shiftRight_lt (x : Word) {w : Nat} (hw' : w ≤ 64) : (x >>> (64 - w)).toNat < 2 ^ w := by
  have bound := BitVec.toNat_ushiftRight_lt x (64 - w) (Nat.sub_le 64 w)
  rwa [Nat.sub_sub_self hw'] at bound

/-- Of an aligned register, the value before the final mask is within the width (R182 law 3). -/
theorem unmaskedChecksum_lt {w : Nat} (hw' : w ≤ 64) (ro : Bool) {ri : Bool} {x c : Word} (xFits : x.toNat < 2 ^ w)
    (aligned : Aligned ri w c) : (unmaskedChecksum w ri ro x c).toNat < 2 ^ w := by
  cases ro with
  | false => exact shiftRight_lt _ hw'
  | true =>
    cases ri with
    | true => exact xor_lt (aligned_true_iff.mp aligned) xFits
    | false => exact xor_lt (aligned_true_iff.mp (bitRev64_aligned hw' aligned)) xFits

/-- R182 law 1: GETVALUE leaves what it computes its answer from. -/
theorem exec_getvalue_idempotent {s t u : State} (hc : s.configured = true) (ht : exec .getvalue s = .next t)
    (hu : exec .getvalue t = .next u) : u.rspData = t.rspData := by
  cases ht.symm.trans (exec_getvalue_of_configured hc)
  cases hu.symm.trans (exec_getvalue_of_configured (s := respond statusOk (checksum s) s) hc)
  rfl

/-- R182 law 3: the mask of `Finalize` takes nothing off under R37. -/
theorem RegisterInv.unmaskedChecksum_eq {s : State} (inv : RegisterInv s) (hc : s.configured = true) :
    unmaskedChecksum s.cfgWidth.toNat s.cfgRefIn s.cfgRefOut s.cfgXorOut s.crc = checksum s :=
  (and_mask_of_lt (unmaskedChecksum_lt (inv.width_legal hc).2 s.cfgRefOut (inv.xorOut_fits hc) (inv.crc_aligned hc))).symm

/-- R182 law 4: after RESET, GETVALUE answers the checksum of no bytes. -/
theorem execAll_reset_getvalue {s : State} (hc : s.configured = true) :
    ∃ t : State, execAll [.reset, .getvalue] s = .next t ∧ t.rspStatus = 0 ∧ t.rspData =
      finalize s.cfgWidth.toNat s.cfgRefIn s.cfgRefOut s.cfgXorOut
        (initialCrc s.cfgWidth.toNat s.cfgInit s.cfgRefIn) := by
  rw [execAll_cons (exec_reset_of_configured hc)]
  exact execAll_updates_getvalue [] hc

/-- Settles O45: law 2 is the mask itself; the other three are the lemmas above. -/
theorem finalizationLaws : Obligations.FinalizationLaws := fun _ hc =>
  ⟨fun _ _ => exec_getvalue_idempotent hc, fun _ => and_mask_lt _ _, fun inv => inv.unmaskedChecksum_eq hc,
    execAll_reset_getvalue hc⟩

/-- Settles O27: the row of `OP` 0x8 is one word, and the two branches on `CONFIGURED`. -/
theorem getvalueReturnsTheChecksum : Obligations.GetvalueReturnsTheChecksum :=
  ⟨fun _ hop => decode_of_opField_of_mask_allOnes (congrArg BitVec.toNat hop) rfl rfl,
    fun _ configured => exec_getvalue_of_configured configured,
    fun _ unconfigured => exec_of_not_configured rfl unconfigured⟩

end Sys2Proof.Machine

/-! SUPPORT. Errors (R200 to R207): the status of every command's answer, in the order of R207, and what an answer with an error
leaves of the state (R206). -/

namespace Sys2Proof.Machine

/-- The operand check of CONFIG and REFLECT answers status 1 for an invalid width (R204). -/
theorem status_of_width_check {w : BitVec 7} {s t u : State} {data : Word}
    (ht : (if widthLegal w then .next (respond statusOk data u) else .next (raise .invalidParameter s) :
      Host.Outcome State Fault Refusal) = .next t) :
    t.rspStatus = if w.toNat = 0 ∨ 65 ≤ w.toNat then 1 else 0 := by
  simp only [← widthLegal_eq_false_iff]
  cases hw : widthLegal w with
  | true =>
    rw [hw] at ht
    cases ht
    rfl
  | false =>
    rw [hw] at ht
    cases ht
    rfl

/-- A configured core has no command short of a configuration (R203). -/
theorem not_missing_configuration {s : State} (hc : s.configured = true) (i : Instr) :
    ¬(needsConfiguration i = true ∧ s.configured = false) :=
  fun ⟨_, unconfigured⟩ => Bool.false_ne_true (unconfigured.symm.trans hc)

/-- The operand check of UPDATER on a configured core, the sum exact (R205). -/
theorem dueStatus_updater_of_configured {s : State} (hc : s.configured = true) (o l : BitVec 32) :
    dueStatus s (some (.updater o l)) = if rangeLegal o l s.lenAtIssue = true then 0 else 2 := by
  rw [dueStatus, if_neg (not_missing_configuration hc _), ← ite_not]
  exact if_congr (Nat.not_lt.trans rangeLegal_iff.symm) rfl rfl

/-- `NotConfigured` comes before whatever else the command would answer (R207). -/
theorem whenConfigured_status {s r : State} {i : Instr} (needs : needsConfiguration i = true)
    (h : s.configured = true → r.rspStatus = dueStatus s (some i)) :
    (whenConfigured s r).rspStatus = dueStatus s (some i) := by
  rcases whenConfigured_cases s r with ⟨hc, e⟩ | ⟨hc, e⟩ <;> rw [e]
  · exact h hc
  · exact (if_pos ⟨needs, hc⟩).symm

/-- Every command answers the status it is due. -/
theorem exec_status {i : Instr} {s t : State} (ht : exec i s = .next t) : t.rspStatus = dueStatus s (some i) := by
  cases i with
  | nop | setpoly | setinit | setxorout =>
    cases ht
    rfl
  | config | reflect => exact status_of_width_check ht
  | reset | update | getvalue | tblrd =>
    cases ht
    exact whenConfigured_status rfl fun hc => (if_neg (not_missing_configuration hc _)).symm
  | updater o l =>
    cases ht
    refine whenConfigured_status rfl fun hc => ?_
    rw [dueStatus_updater_of_configured hc]
    exact apply_ite State.rspStatus _ _ _

/-- Settles O30: a word that decode rejects is answered with status 4, every command with the status it is due. -/
theorem statusFollowsThePriorityOrder : Obligations.StatusFollowsThePriorityOrder := by
  intro s t b ho ht
  cases hd : decode b with
  | none =>
    cases ht.symm.trans (coreTurn_illegal exec ho hd)
    rfl
  | some i => exact exec_status ((coreTurn_decoded exec ho hd).symm.trans ht)

/-- A command answered with an error has raised it and done nothing else (R206): every other answer has status 0. -/
theorem exec_raises_of_status_ne_zero {i : Instr} {s t : State} (ht : exec i s = .next t) (error : t.rspStatus ≠ 0) :
    ∃ e, t = raise e s := by
  obtain ⟨t', ht', what⟩ := exec_cases i s
  obtain rfl : t' = t := by simpa [ht'] using ht
  rcases what with raised | ⟨_, rfl⟩ | ⟨_, _, rfl⟩ | ⟨_, _, rfl⟩ | ⟨_, _, rfl⟩ | ⟨_, _, _, _, _, rfl⟩ | ⟨_, _, rfl⟩ |
    ⟨_, _, _, rfl⟩ | ⟨_, _, _, _, _, rfl⟩
  case inl => exact raised
  all_goals exact absurd rfl error

/-- So has every word outstanding, legal or not. -/
theorem coreTurn_raises_of_status_ne_zero {s t : State} {b : Beat} (ho : s.outstanding = some b)
    (ht : coreTurn exec s = .next t) (error : t.rspStatus ≠ 0) : ∃ e, t = raise e s := by
  cases hd : decode b with
  | none => exact ⟨_, Host.Outcome.next.inj (ht.symm.trans (coreTurn_illegal exec ho hd))⟩
  | some i => exact exec_raises_of_status_ne_zero ((coreTurn_decoded exec ho hd).symm.trans ht) error

/-- Settles O31: the answer is `raise` of an error, which writes the response and nothing else. -/
theorem errorsChangeNothingButTheResponse : Obligations.ErrorsChangeNothingButTheResponse := by
  intro s t b ho ht error
  obtain ⟨e, rfl⟩ := coreTurn_raises_of_status_ne_zero ho ht error
  rfl

end Sys2Proof.Machine

/-! SUPPORT. Hardware reset (R230, R231): every drive of `rst_n` but one of 1 at 1 leaves the reset values, whatever the core was
doing. -/

namespace Sys2Proof.Machine

/-- The core after a hardware reset, `rst_n` at a level, with moves to come. -/
def afterReset (level : Bool) (rest : List Move) (s : State) : State :=
  { resetCore s with rstN := level, schedule := rest }

/-- It holds R230's values, and the host's buffer is as before. -/
theorem afterReset_hasResetValues (level : Bool) (rest : List Move) (s : State) :
    HasResetValues s (afterReset level rest s) :=
  ⟨rfl, rfl, rfl, rfl, rfl, rfl, rfl, rfl, rfl, hbufRead_congr rfl⟩

/-- A drive of `rst_n` resets the core, unless it is of 1 at 1 (log entry 11). -/
theorem step_driveReset_of_not_held {s : State} {level : Bool} {rest : List Move}
    (h : s.schedule = .driveReset level :: rest) (notHeld : ¬(level && s.rstN) = true) :
    step s = .next (afterReset level rest s) :=
  (step_of_move h).trans (congrArg _ (driveRstN_of_not_held (s := { s with schedule := rest }) notHeld))

/-- A core held in reset accepts no command (R230). -/
theorem cmdReady_of_held_in_reset {s : State} (low : s.rstN = false) : cmdReady s = false := by
  rw [cmdReady, low, Bool.false_and]

/-- A run of two steps. -/
theorem run_two {s t u : State} (first : step s = .next t) (second : step t = .next u) :
    Host.Core.run Sys2Proof.core 2 s = .next u := by
  rw [run_of_step first, run_of_step second]
  rfl

/-- Settles O17: a core held in reset is not ready, and each way back to 1 ends with a drive that resets it. -/
theorem hardwareResetLeavesTheResetValues : Obligations.HardwareResetLeavesTheResetValues := by
  refine ⟨fun s b rest low h => ?_, fun s rest h => ?_, fun s rest low h => ?_⟩
  · exact (beatIsIssuedExactlyWhenReady s b rest h).2 (cmdReady_of_held_in_reset low)
  · have falls := step_driveReset_of_not_held h Bool.false_ne_true
    have returns : step (afterReset false (.driveReset true :: rest) s) = .next (afterReset true rest s) :=
      step_driveReset_of_not_held rfl Bool.false_ne_true
    exact ⟨_, run_two falls returns, afterReset_hasResetValues true rest s, rfl, rfl⟩
  · have returns := step_driveReset_of_not_held h (by simp [low])
    exact ⟨_, returns, afterReset_hasResetValues true rest s, rfl, rfl⟩

/-- Settles O18: the reset takes the command away, so the core's turn finds nothing outstanding. -/
theorem hardwareResetAbandonsTheCommandInFlight : Obligations.HardwareResetAbandonsTheCommandInFlight := by
  intro s _ rest _ h
  have falls := step_driveReset_of_not_held h Bool.false_ne_true
  have idle : step (afterReset false (.core :: rest) s) = .next (afterReset false rest s) :=
    (step_core rfl).trans (coreTurn_idle exec rfl)
  exact ⟨_, run_two falls idle, afterReset_hasResetValues false rest s, cmdReady_of_held_in_reset rfl, rfl⟩

/-- Settles O50: the memory is empty, both lengths are 0, nothing is outstanding and `rst_n` is 1. -/
theorem portInvariantHoldsAtReset : Obligations.PortInvariantHoldsAtReset where
  hbuf_canonical := Memory.reset_wf
  length_bounded := Nat.zero_le _
  sample_bounded := Nat.zero_le _
  status_known := Nat.zero_le _
  error_data_zero := fun _ => rfl
  outstanding_unanswered := fun _ => rfl
  held_in_reset := fun _ => ⟨rfl, rfl, rfl⟩

end Sys2Proof.Machine

/-! SUPPORT. What a session keeps (R234, R238): no command but a successful CONFIG moves the value RESET goes back to, and no
command of a session reads a staging register. -/

namespace Sys2Proof.Machine

/-- The value RESET gives `CRC` under the active parameter set (R163). -/
def crcAtReset (s : State) : Word := initialCrc s.cfgWidth.toNat s.cfgInit s.cfgRefIn

/-- Only a successful CONFIG changes `CONFIGURED` or the value RESET goes back to. -/
theorem exec_keeps_configured_and_crcAtReset {i : Instr} {s t : State} (noConfig : isSuccessfulConfig i = false)
    (ht : exec i s = .next t) : t.configured = s.configured ∧ crcAtReset t = crcAtReset s := by
  obtain ⟨t', ht', what⟩ := exec_cases i s
  obtain rfl : t' = t := by simpa [ht'] using ht
  rcases what with ⟨_, rfl⟩ | ⟨_, rfl⟩ | ⟨_, _, rfl⟩ | ⟨_, _, rfl⟩ | ⟨_, _, rfl⟩ | ⟨_, _, _, rfl, legal, _⟩ | ⟨_, _, rfl⟩ |
    ⟨_, _, _, rfl⟩ | ⟨_, _, _, _, _, rfl⟩
  case inr.inr.inr.inr.inr.inl => cases noConfig.symm.trans legal
  all_goals exact ⟨rfl, rfl⟩

/-- Commands without a successful CONFIG, and then RESET, on a configured core. -/
theorem execAll_then_reset (commands : List Instr) {s : State} (hc : s.configured = true)
    (noConfig : (commands.all fun i => !isSuccessfulConfig i) = true) :
    ∃ t : State, execAll (commands ++ [.reset]) s = .next t ∧ t.rspStatus = 0 ∧ t.crc = crcAtReset s := by
  induction commands generalizing s with
  | nil => exact ⟨_, execAll_cons (exec_reset_of_configured hc) [], rfl, rfl⟩
  | cons i rest ih =>
    rw [List.all_cons, Bool.and_eq_true, Bool.not_eq_true'] at noConfig
    obtain ⟨first, others⟩ := noConfig
    obtain ⟨u, runs⟩ := exec_answers i s
    obtain ⟨configured, value⟩ := exec_keeps_configured_and_crcAtReset first runs
    obtain ⟨t, ht, ok, crc⟩ := ih (configured.trans hc) others
    exact ⟨t, (execAll_cons runs _).trans ht, ok, crc.trans value⟩

/-- Settles O41: right after CONFIG, `CRC` is the value RESET goes back to, and the commands between keep that value. -/
theorem resetRestoresTheCrcOfTheLastConfig : Obligations.ResetRestoresTheCrcOfTheLastConfig := by
  intro s w ri ro commands lo hi noConfig
  have config := exec_config_of_legal (widthLegal_iff.mpr ⟨lo, hi⟩) ri ro s
  obtain ⟨t, ht, ok, crc⟩ := execAll_then_reset commands (s := respond statusOk 0 (latch w ri ro s)) rfl noConfig
  exact ⟨_, t, config, (execAll_cons config _).trans ht, ok, crc⟩

/-- The state without its staging registers, its response port and the command outstanding: what a session consists of, and the
host's side of it. -/
def sessionOf (s : State) : State :=
  { s with stgPoly := 0, stgInit := 0, stgXorOut := 0, rspStatus := 0, rspData := 0, rspValid := false, outstanding := none }

theorem sessionOf_lenAtIssue (s : State) : (sessionOf s).lenAtIssue = s.lenAtIssue := rfl

/-- Whether a command finds the core configured, and so what becomes of the session, depends on the session only (R203). -/
theorem sessionOf_whenConfigured {s r r' : State} (same : sessionOf r = sessionOf r') :
    sessionOf (whenConfigured s r) = sessionOf (whenConfigured (sessionOf s) r') := by
  rcases whenConfigured_cases s r with ⟨hc, e⟩ | ⟨hc, e⟩ <;> rw [e]
  · rw [whenConfigured_of_configured (s := sessionOf s) hc]
    exact same
  · rw [whenConfigured_of_not_configured (s := sessionOf s) hc]
    rfl

/-- What a command other than a successful CONFIG does to the session depends on the session only. -/
theorem exec_sessionOf {i : Instr} (noConfig : isSuccessfulConfig i = false) (s : State) :
    ∃ t u : State, exec i s = .next t ∧ exec i (sessionOf s) = .next u ∧ sessionOf t = sessionOf u := by
  cases i with
  | nop | setpoly | setinit | setxorout => exact ⟨_, _, rfl, rfl, rfl⟩
  | config w ri ro =>
    exact ⟨_, _, exec_config_of_not_legal noConfig ri ro s, exec_config_of_not_legal noConfig ri ro (sessionOf s), rfl⟩
  | reset | update | getvalue | tblrd => exact ⟨_, _, rfl, rfl, sessionOf_whenConfigured rfl⟩
  | updater o l =>
    refine ⟨_, _, rfl, rfl, sessionOf_whenConfigured ?_⟩
    rw [sessionOf_lenAtIssue]
    split <;> rfl
  | reflect w v =>
    cases legal : widthLegal w with
    | true => exact ⟨_, _, exec_reflect_of_legal legal v s, exec_reflect_of_legal legal v (sessionOf s), rfl⟩
    | false => exact ⟨_, _, exec_reflect_of_not_legal legal v s, exec_reflect_of_not_legal legal v (sessionOf s), rfl⟩

/-- So it does the same in two states of one session. -/
theorem exec_same_session {i : Instr} (noConfig : isSuccessfulConfig i = false) {s s' : State}
    (same : sessionOf s = sessionOf s') :
    ∃ t t' : State, exec i s = .next t ∧ exec i s' = .next t' ∧ sessionOf t = sessionOf t' := by
  obtain ⟨t, u, ht, hu, left⟩ := exec_sessionOf noConfig s
  obtain ⟨t', u', ht', hu', right⟩ := exec_sessionOf noConfig s'
  obtain rfl : u = u' := Host.Outcome.next.inj (hu.symm.trans (same ▸ hu'))
  exact ⟨t, t', ht, ht', left.trans right.symm⟩

/-- A staging write is no part of the session. -/
theorem exec_stagingWrite_session {i : Instr} (staging : isStagingWrite i = true) (s : State) :
    ∃ t : State, exec i s = .next t ∧ sessionOf t = sessionOf s := by
  cases i
  case setpoly | setinit | setxorout => exact ⟨_, rfl, rfl⟩
  all_goals cases staging

/-- Commands without a successful CONFIG leave the same session with their staging writes and without. -/
theorem execAll_without_stagingWrites (commands : List Instr) {s s' : State} (same : sessionOf s = sessionOf s')
    (noConfig : (commands.all fun i => !isSuccessfulConfig i) = true) :
    ∃ t t' : State, execAll commands s = .next t ∧ execAll (commands.filter fun i => !isStagingWrite i) s' = .next t' ∧
      sessionOf t = sessionOf t' := by
  induction commands generalizing s s' with
  | nil => exact ⟨s, s', rfl, rfl, same⟩
  | cons i rest ih =>
    rw [List.all_cons, Bool.and_eq_true, Bool.not_eq_true'] at noConfig
    obtain ⟨first, others⟩ := noConfig
    cases staging : isStagingWrite i with
    | true =>
      obtain ⟨u, runs, kept⟩ := exec_stagingWrite_session staging s
      rw [execAll_cons runs, List.filter_cons_of_neg (by simp [staging])]
      exact ih (kept.trans same) others
    | false =>
      obtain ⟨u, u', runs, runs', kept⟩ := exec_same_session first same
      rw [execAll_cons runs, List.filter_cons_of_pos (by simp [staging]), execAll_cons runs']
      exact ih kept others

/-- Settles O42: everything the statement compares is part of the session. -/
theorem stagingWritesNeverDisturbASession : Obligations.StagingWritesNeverDisturbASession := by
  intro s commands noConfig
  obtain ⟨t, u, ht, hu, same⟩ := execAll_without_stagingWrites commands (rfl : sessionOf s = sessionOf s) noConfig
  have field {α : Type} (f : State → α) : f (sessionOf t) = f (sessionOf u) := congrArg f same
  exact ⟨t, u, ht, hu, field State.crc, field State.table, field State.cfgWidth, field State.cfgPoly, field State.cfgInit,
    field State.cfgXorOut, field State.cfgRefIn, field State.cfgRefOut, field State.configured, field checksum⟩

end Sys2Proof.Machine
